-- ==== Sys2Proof/Word.lean ====
section
/-! DEFINITION. The two word types of BFII-CORE: the 64-bit WORD (00_scope.md R10) and the byte. -/

namespace Sys2Proof

/-- A WORD: every subkey, table entry and block half is an unsigned 64-bit integer (00_scope.md R10).
`+`, `^^^`, `<<<` and `|||` are those of R14: addition is modulo 2^64. -/
abbrev Word := BitVec 64

/-- A byte: one position of the key buffer (10_state.md R27). -/
abbrev Byte := BitVec 8

end Sys2Proof
end

