-- ==== Sys2Proof/Config.lean ====
section
/-! DEFINITION. The shapes fixed by the source (00_scope.md R10), the open parameters of the instance
(R11) and the free values. A parameter or free value is an opaque constant: nothing can be proved of its
value, so a theorem about the machine holds for every choice. -/

namespace Sys2Proof

/-- The 66 subkeys, indices 0..65 (10_state.md R22). -/
abbrev Subkeys := Vector Word 66

/-- The 8 substitution tables of 256 entries (10_state.md R23). -/
abbrev Tables := Vector (Vector Word 256) 8

/-- The cipher context (P, S), "the only mutable entity" of the cipher (00_scope.md R19). -/
structure Context where
  /-- Subkey file P[0..65] (10_state.md R22). -/
  P : Subkeys
  /-- Substitution table file S[0..7][0..255] (10_state.md R23). -/
  S : Tables
deriving DecidableEq, Repr, Inhabited

/-- A 128-bit block as its two halves (00_scope.md R15). -/
structure Block where
  L : Word
  R : Word
deriving DecidableEq, Repr, Inhabited

/-- The parameters the cipher functions take (00_scope.md R11): the seed tables (45_seed_tables.md R125)
and the round function F_FN (41_block_transform.md R106). -/
structure Params where
  /-- BASE_P[0..65]. -/
  baseP : Subkeys
  /-- BASE_S[0..7][0..255]. -/
  baseS : Tables
  /-- F_FN: the round function, of the tables and one WORD. -/
  f : Tables → Word → Word

/-- BASE_P of this instance: OPEN (45_seed_tables.md R125, D20; log 4). -/
opaque Config.baseP : Subkeys

/-- BASE_S of this instance: OPEN (45_seed_tables.md R125, D20; log 4). -/
opaque Config.baseS : Tables

/-- F_FN of this instance: OPEN (41_block_transform.md R106, D21; log 5). Its default F_ALT8 is
`Sys2Proof.Machine.fAlt8`. -/
opaque Config.fFn : Tables → Word → Word

/-- The cipher parameters of this instance, constants of the hardware (10_state.md R26, R44). -/
def Config.params : Params := { baseP := Config.baseP, baseS := Config.baseS, f := Config.fFn }

/-- The number of the 0x1000-byte bus page the window sits in: OPEN (20_memory.md R54, D2; log 6). -/
opaque Config.windowPage : Nat

/-- BFII_BASE, a multiple of 0x1000 (20_memory.md R54). -/
def Config.bfiiBase : Nat := Config.windowPage * 0x1000

/-- BUS_ERR_RESP: whether a rejected access also returns a bus error response: OPEN
(60_exceptions.md R139, D33; log 7). -/
opaque Config.busErrResp : Bool

/-- Free value number `n` of `draw()` (00_scope.md R17): what a read of DATA_L or DATA_R returns while
BUSY = 1 (20_memory.md R55; log 8). -/
opaque Config.draw : Nat → Word

/-- Free value number `n` for P and S after a reset, which "are left with no value"
(70_reset_and_hazards.md R160; log 3). -/
opaque Config.unsetContext : Nat → Context

end Sys2Proof
end

