-- ==== Sys2Proof/Machine/BlockTransform.lean ====
section
/-! DEFINITION. The block transform as pure functions (41_block_transform.md): the default round function
F_ALT8, EncryptBlock and DecryptBlock. The long loops are irreducible so that no unification runs them:
`unfold` opens them by name, and the kernel evaluates them as ever. -/

namespace Sys2Proof.Machine

/-- S[t][e] for an 8-bit index (10_state.md R23): no lane can fall outside a table (41 R108). -/
def entry (S : Tables) (t : Fin 8) (e : BitVec 8) : Word := (S.get t).get ⟨e.toNat, e.isLt⟩

/-- The 8-bit lane of `x` that indexes table `t`: the most significant lane for table 0, the least
significant for table 7 (41_block_transform.md R107). -/
def indexLane (x : Word) (t : Fin 8) : BitVec 8 := x.extractLsb' (8 * (7 - t.val)) 8

/-- F_ALT8, the default round function (41_block_transform.md R107). -/
def fAlt8 (S : Tables) (x : Word) : Word :=
  let s := fun t : Fin 8 => entry S t (indexLane x t)
  let y := s 0 + s 1
  let y := y ^^^ s 2
  let y := y + s 3
  let y := y ^^^ s 4
  let y := y + s 5
  let y := y ^^^ s 6
  let y := y + s 7
  y

/-- P[i], for an index that the loops keep in 0..65 (log 23). -/
def subkey (P : Subkeys) (i : Nat) : Word := P.getD i 0

/-- One round with subkey `k`, and the swap after it (41_block_transform.md R109). -/
def feistelRound (f : Word → Word) (k : Word) (b : Block) : Block :=
  let l := b.L ^^^ k
  let r := b.R ^^^ f l
  { L := r, R := l }

/-- "Undo the last swap" (41_block_transform.md R109, R113). -/
def swapHalves (b : Block) : Block := { L := b.R, R := b.L }

/-- Whitening: the right half with `kr`, the left half with `kl` (41_block_transform.md R109). -/
def whiten (kl kr : Word) (b : Block) : Block := { L := b.L ^^^ kl, R := b.R ^^^ kr }

/-- EncryptBlock: subkeys P[0], ..., P[63] in the rounds, then P[64] on the right and P[65] on the left
(41_block_transform.md R109). `f` is F_FN (R106). -/
@[irreducible] def encryptBlock (f : Tables → Word → Word) (c : Context) (b : Block) : Block :=
  let b := (List.range 64).foldl (fun b r => feistelRound (f c.S) (subkey c.P r) b) b
  whiten (subkey c.P 65) (subkey c.P 64) (swapHalves b)

/-- DecryptBlock: subkeys P[65], ..., P[2] in the rounds, then P[1] on the right and P[0] on the left
(41_block_transform.md R110). -/
@[irreducible] def decryptBlock (f : Tables → Word → Word) (c : Context) (b : Block) : Block :=
  let b := (List.range 64).foldl (fun b r => feistelRound (f c.S) (subkey c.P (65 - r)) b) b
  whiten (subkey c.P 0) (subkey c.P 1) (swapHalves b)

end Sys2Proof.Machine
end

