-- ==== Sys2Proof/Syntax.lean ====
section
/-! DEFINITION. The instruction set of BFII-CORE, which is its command set (30_encoding.md R70): one
constructor per row of spec/opcode_table.json. -/

namespace Sys2Proof

/-- A legal command (30_encoding.md R72). No command carries an operand: operands are the registers the
command reads implicitly (R73). -/
inductive Instr where
  /-- NOP (40_key_schedule.md R102). -/
  | nop
  /-- INIT: run the key schedule (40_key_schedule.md R96). -/
  | init
  /-- ENCRYPT: transform the block forward (41_block_transform.md R115). -/
  | encrypt
  /-- DECRYPT: transform the block backward (41_block_transform.md R116). -/
  | decrypt
deriving DecidableEq, Repr

end Sys2Proof
end

