-- ==== Sys2Proof/WellFormed.lean ====
section
/-! DEFINITION. What is well-formed: a command word (30_encoding.md R71, R72), and an instruction. -/

namespace Sys2Proof

/-- RSVD, bits 63:4 of a command word, "must be 0" (30_encoding.md R71). -/
def rsvdIsZero (c : Word) : Bool := c >>> 4 == 0

/-- OP, bits 3:0 of a command word, names an assigned operation, 0x0..0x3 (30_encoding.md R72). -/
def opIsAssigned (c : Word) : Bool := c.toNat % 16 < 4

/-- The well-formed command words: both checks (30_encoding.md R75). -/
def wellFormedWord (c : Word) : Bool := rsvdIsZero c && opIsAssigned c

/-- Every command is well-formed: it has no immediate and no register field to check
(30_encoding.md R73). -/
def Instr.wellFormed (i : Instr) : Bool :=
  match i with
  | .nop => true
  | .init => true
  | .encrypt => true
  | .decrypt => true

end Sys2Proof
end

