-- ==== Sys2Proof/Decode.lean ====
section
/-! DEFINITION. The decoder and the encoder of command words (30_encoding.md R71 to R75), and the byte
lanes of the bus (20_memory.md R46). -/

namespace Sys2Proof

/-- Byte lane `j` of an 8-byte access: data bits [8j+7 : 8j] (20_memory.md R46). -/
def lane (v : Word) (j : Nat) : Byte := v.extractLsb' (8 * j) 8

/-- The eight bytes of a WORD in address order (20_memory.md R46). -/
def lanes (v : Word) : List Byte := (List.range 8).map (lane v)

/-- The WORD that bytes at rising addresses make, the first in the lowest lane (20_memory.md R46). -/
def ofLanes (bs : List Byte) : Word := bs.foldr (fun b acc => acc <<< 8 ||| b.setWidth 64) 0

/-- OP, bits 3:0 (30_encoding.md R71). -/
def opField (c : Word) : BitVec 4 := c.extractLsb' 0 4

/-- RSVD, bits 63:4 (30_encoding.md R71). -/
def rsvdField (c : Word) : BitVec 60 := c.extractLsb' 4 60

/-- Why the decoder refuses. -/
inductive DecodeError where
  /-- ILLEGAL: RSVD is not 0, or OP is reserved (30_encoding.md R74, R75). -/
  | illegal
  /-- Fewer than eight bytes: no command word (30_encoding.md R70). -/
  | truncated
deriving DecidableEq, Repr

/-- Decode(c) of 30_encoding.md R74: total on the 64-bit words. -/
def decode (c : Word) : Except DecodeError Instr :=
  if rsvdField c ≠ 0 then .error .illegal
  else
    match (opField c).toNat with
    | 0x0 => .ok .nop
    | 0x1 => .ok .init
    | 0x2 => .ok .encrypt
    | 0x3 => .ok .decrypt
    | _ => .error .illegal

/-- The decoder on bytes: one command word is eight bytes in lane order, and the rest is handed back
(30_encoding.md R70, 20_memory.md R46; log 20). -/
def decodeBytes (bs : List Byte) : Except DecodeError (Instr × List Byte) :=
  match bs with
  | b0 :: b1 :: b2 :: b3 :: b4 :: b5 :: b6 :: b7 :: rest =>
    match decode (ofLanes [b0, b1, b2, b3, b4, b5, b6, b7]) with
    | .ok i => .ok (i, rest)
    | .error e => .error e
  | _ => .error .truncated

/-- The OP value of a command (30_encoding.md R72). -/
def opcode (i : Instr) : BitVec 4 :=
  match i with
  | .nop => 0x0
  | .init => 0x1
  | .encrypt => 0x2
  | .decrypt => 0x3

/-- The command word: RSVD = 0 above OP (30_encoding.md R71, R72). -/
def encode (i : Instr) : Word := (0 : BitVec 60) ++ opcode i

/-- The eight bytes of the command word in address order (20_memory.md R46). -/
def encodeBytes (i : Instr) : List Byte := lanes (encode i)

/-- What the decoder reads from an opcode-table word `w` of `nbits` bits, laid out as the bus carries it:
eight bytes, lowest lane first, the bits above `nbits` 0. -/
def decodeTableWord (nbits w : Nat) : Option Instr :=
  match decodeBytes (lanes (BitVec.ofNat 64 (w % 2 ^ nbits))) with
  | .ok (i, _) => some i
  | .error _ => none

end Sys2Proof
end

