-- ==== Sys2Proof/Machine/State.lean ====
section
/-! DEFINITION. The state of BFII-CORE (10_state.md), what the host and the platform can do to it, the
reasons a step could stop, and the machine after reset. -/

namespace Sys2Proof.Machine

/-- The key buffer as memory: bytes by window offset, in one canonical form (`Memory.wf`). An offset that
is not listed reads 0, the reset value of every key byte (10_state.md R27; log 14). -/
abbrev Memory := List Host.Cell

/-- The size of a host access: 1, 2, 4 or 8 bytes (20_memory.md R47). -/
inductive AccessSize where
  | b1 | b2 | b4 | b8
deriving DecidableEq, Repr

/-- One host access, at an offset of the register window (20_memory.md R54, 30_encoding.md R79). -/
inductive Access where
  /-- HostRead (20_memory.md R55). -/
  | read (off : BitVec 12) (size : AccessSize)
  /-- HostWrite (20_memory.md R56). -/
  | write (off : BitVec 12) (size : AccessSize) (v : Word)
deriving DecidableEq, Repr

/-- One turn of the interleaving of 20_memory.md R58, and the reset event (log 1). -/
inductive Turn where
  /-- A host access takes effect. -/
  | host (a : Access)
  /-- The engine takes its step, if enabled (10_state.md R38). -/
  | engine
  /-- The platform applies reset (70_reset_and_hazards.md R160). -/
  | reset
deriving DecidableEq, Repr

/-- What the bus answers to one host access (log 7, log 10, log 21). `busError` is the error response of
60_exceptions.md R139. -/
inductive Reply where
  /-- The value a read returns, zero-extended (20_memory.md R55). -/
  | data (v : Word) (busError : Bool)
  /-- A write is finished (20_memory.md R56). -/
  | done (busError : Bool)
deriving DecidableEq, Repr

/-- The record of an accepted command: the operation and its operands at acceptance (10_state.md R38). -/
inductive Pending where
  /-- (INIT, KEY[0..n-1], n) (40_key_schedule.md R96). -/
  | init (key : List Byte) (n : BitVec 10)
  /-- (ENCRYPT, DATA_L, DATA_R) (41_block_transform.md R115). -/
  | encrypt (b : Block)
  /-- (DECRYPT, DATA_L, DATA_R) (41_block_transform.md R116). -/
  | decrypt (b : Block)
deriving DecidableEq, Repr

/-- The machine state: the rows of 10_state.md's state summary, then three fields of the model. -/
structure State where
  /-- P and S (10_state.md R22, R23). -/
  ctx : Context
  /-- KEY[0..527], KEY[j] at offset 0x200 + j (10_state.md R27, 20_memory.md R52). -/
  key : Memory
  /-- KEYLEN.LEN (10_state.md R29). -/
  keylen : BitVec 10
  /-- DATA_L (10_state.md R30). -/
  dataL : Word
  /-- DATA_R (10_state.md R31). -/
  dataR : Word
  /-- STATUS.BUSY (10_state.md R34). -/
  busy : Bool
  /-- STATUS.KEYED (10_state.md R33). -/
  keyed : Bool
  /-- STATUS.ERR (10_state.md R35). -/
  err : Bool
  /-- STATUS.ERRCODE (10_state.md R36). -/
  errcode : BitVec 4
  /-- PENDING; `none` is the spec's "empty" (10_state.md R38). -/
  pending : Option Pending
  /-- MODEL: the turns still to come, the next one first (log 1). -/
  agenda : List Turn
  /-- MODEL: the replies to the host accesses so far, oldest first (log 10). -/
  replies : List Reply
  /-- MODEL: how many free values have been drawn (log 8). -/
  free : Nat
deriving DecidableEq, Repr

/-- Why a step stops with a fault: never. An error is recorded in STATUS and the machine goes on
(60_exceptions.md R135), and nothing in the block hangs (70_reset_and_hazards.md R173). -/
inductive Fault
deriving DecidableEq, Repr

/-- Why a step is refused. -/
inductive Refusal where
  /-- Raised by `exec` for a command that has no meaning yet (safe). No arm raises it. -/
  | notModelled (mnemonic : String)
deriving DecidableEq, Repr

/-- The outcome of a meaning or of a step. -/
abbrev Result := Host.Outcome State Fault Refusal

/-! ### Named updates -/

/-- The agenda becomes `x`. -/
def State.withAgenda (s : State) (x : List Turn) : State := { s with agenda := x }
/-- One more reply to the host. -/
def State.withReply (s : State) (x : Reply) : State := { s with replies := s.replies ++ [x] }
/-- One more free value is drawn. -/
def State.withDrawn (s : State) : State := { s with free := s.free + 1 }
/-- ERR <- 1 and ERRCODE <- `x`. -/
def State.withError (s : State) (x : BitVec 4) : State := { s with err := true, errcode := x }
/-- The key buffer becomes `x`. -/
def State.withKey (s : State) (x : Memory) : State := { s with key := x }
/-- KEYLEN.LEN <- `x`. -/
def State.withKeylen (s : State) (x : BitVec 10) : State := { s with keylen := x }
/-- DATA_L <- `x`. -/
def State.withDataL (s : State) (x : Word) : State := { s with dataL := x }
/-- DATA_R <- `x`. -/
def State.withDataR (s : State) (x : Word) : State := { s with dataR := x }
/-- (DATA_L, DATA_R) <- `x`. -/
def State.withBlock (s : State) (x : Block) : State := { s with dataL := x.L, dataR := x.R }
/-- (P, S) <- `x`. -/
def State.withCtx (s : State) (x : Context) : State := { s with ctx := x }
/-- KEYED <- `x`. -/
def State.withKeyed (s : State) (x : Bool) : State := { s with keyed := x }
/-- PENDING <- `x` and BUSY <- 1. -/
def State.withPending (s : State) (x : Pending) : State := { s with pending := some x, busy := true }
/-- PENDING <- empty and BUSY <- 0. -/
def State.withIdle (s : State) : State := { s with pending := none, busy := false }

/-- The state a reset leaves (70_reset_and_hazards.md R160), given the model's own fields: P and S hold
free value number `n` (log 3). -/
def State.afterReset (n : Nat) (agenda : List Turn) (replies : List Reply) : State :=
  { ctx := Config.unsetContext n, key := [], keylen := 0, dataL := 0, dataR := 0,
    busy := false, keyed := false, err := false, errcode := 0, pending := none,
    agenda := agenda, replies := replies, free := n + 1 }

/-- The machine right after reset (70_reset_and_hazards.md R160), with no access pending. -/
def State.reset : State := State.afterReset 0 [] []

end Sys2Proof.Machine
end

