-- ==== Sys2Proof/Machine/Flags.lean ====
section
/-! DEFINITION. The STATUS register and the error codes: the only flags the block has (10_state.md R42). -/

namespace Sys2Proof.Machine

/-- The errors an access can raise (60_exceptions.md R136). -/
inductive ErrorCode where
  /-- ILLEGAL_CMD (R142). -/
  | illegalCmd
  /-- BAD_KEYLEN (R143). -/
  | badKeylen
  /-- NOT_KEYED (R144). -/
  | notKeyed
  /-- BUSY_VIOLATION (R140). -/
  | busyViolation
  /-- BUS_ERROR (R139). -/
  | busError
deriving DecidableEq, Repr

/-- The code an error writes to ERRCODE; 0 is NONE and 6..15 are never written (60_exceptions.md R136). -/
def errorBits (e : ErrorCode) : BitVec 4 :=
  match e with
  | .illegalCmd => 1
  | .badKeylen => 2
  | .notKeyed => 3
  | .busyViolation => 4
  | .busError => 5

/-- One flag as the low bit of a WORD. -/
def flagWord (b : Bool) : Word := (BitVec.ofBool b).setWidth 64

/-- The value a read of STATUS returns: `zext_64(ERRCODE) << 4 | ERR << 2 | KEYED << 1 | BUSY`
(20_memory.md R55, layout 10_state.md R32). -/
def statusWord (s : State) : Word :=
  s.errcode.setWidth 64 <<< 4 ||| flagWord s.err <<< 2 ||| flagWord s.keyed <<< 1 ||| flagWord s.busy

end Sys2Proof.Machine
end

