-- ==== Sys2Proof/Machine/Ops.lean ====
section
/-! DEFINITION. The shared operations: the key buffer as memory, the register window, recording an error,
reset. There is no trap entry and no return from one (60_exceptions.md R147, R148): recording an error is
all that an exceptional event does. -/

namespace Sys2Proof.Machine

/-! ### The key buffer as memory -/

/-- Where the KEY window begins and ends: offsets 0x200..0x40F (20_memory.md R50). -/
def keyBase : Nat := 0x200
def keyEnd : Nat := 0x410

/-- The byte at an offset; one that is not listed reads 0 (10_state.md R27). -/
def Memory.read (m : Memory) (a : Nat) : Byte :=
  match m with
  | [] => 0#8
  | (x, b) :: rest => if x = a then b else Memory.read rest a

/-- Writing a byte, keeping the offsets strictly rising and no listed byte 0. -/
def Memory.write (m : Memory) (a : Nat) (v : Byte) : Memory :=
  match m with
  | [] => if v = 0#8 then [] else [(a, v)]
  | (x, b) :: rest =>
    if a < x then (if v = 0#8 then (x, b) :: rest else (a, v) :: (x, b) :: rest)
    else if x = a then (if v = 0#8 then rest else (a, v) :: rest)
    else (x, b) :: Memory.write rest a v

/-- The listed offsets rise strictly from `lo` and stay below `keyEnd`, and no listed byte is 0. -/
def Memory.wfFrom (m : Memory) (lo : Nat) : Bool :=
  match m with
  | [] => true
  | (x, b) :: rest => decide (lo ≤ x) && decide (x < keyEnd) && b != 0#8 && Memory.wfFrom rest (x + 1)

/-- The canonical form of the key buffer: equal contents are equal data. -/
def Memory.wf (m : Memory) : Bool := Memory.wfFrom m keyBase

/-- Writing the low `n` lanes of `v` at rising offsets from `a` (20_memory.md R46, R52). -/
def Memory.writeLanes (m : Memory) (a : Nat) (v : Word) (n : Nat) : Memory :=
  (List.range n).foldl (fun m i => m.write (a + i) (lane v i)) m

/-! ### The register window -/

/-- What stands at an offset of the window (20_memory.md R50). -/
inductive Slot where
  | cmd | status | keylen | dataL | dataR | key | reserved
deriving DecidableEq, Repr

/-- The address map (20_memory.md R50). -/
def slotAt (off : BitVec 12) : Slot :=
  if off = 0x000#12 then .cmd
  else if off = 0x008#12 then .status
  else if off = 0x010#12 then .keylen
  else if off = 0x020#12 then .dataL
  else if off = 0x028#12 then .dataR
  else if keyBase ≤ off.toNat ∧ off.toNat < keyEnd then .key
  else .reserved

/-- Accepted(off, size) of 20_memory.md R55: the sizes, alignments and offsets the window takes
(R47, R48, R51). -/
def accepted (off : BitVec 12) (size : AccessSize) : Bool :=
  match size with
  | .b8 => decide (off.toNat % 8 = 0) &&
      (off = 0x000#12 || off = 0x008#12 || off = 0x010#12 || off = 0x020#12 || off = 0x028#12 ||
        (decide (0x200 ≤ off.toNat) && decide (off.toNat ≤ 0x408)))
  | .b1 => decide (0x200 ≤ off.toNat) && decide (off.toNat ≤ 0x40F)
  | .b2 => false
  | .b4 => false

/-- How many bytes an access moves (20_memory.md R47). -/
def byteCount (size : AccessSize) : Nat :=
  match size with
  | .b1 => 1
  | .b2 => 2
  | .b4 => 4
  | .b8 => 8

/-! ### Errors -/

/-- `raise Error(code)`: the first error since reset is recorded, a later one changes nothing
(60_exceptions.md R138, R137). -/
def raiseError (e : ErrorCode) (s : State) : State :=
  if s.err then s else s.withError (errorBits e)

/-- The check every write meets: while BUSY = 1 it raises BUSY_VIOLATION and has no other effect
(60_exceptions.md R140); else it has `effect`. -/
def unlessBusy (s : State) (effect : State → State) : State :=
  if s.busy then raiseError .busyViolation s else effect s

/-! ### Reset -/

/-- The reset event, also while a command is in flight (70_reset_and_hazards.md R160, R161). What the host
has still to do and has been answered is not the block's, and stays (log 15). -/
def applyReset (s : State) : State := State.afterReset s.free s.agenda s.replies

end Sys2Proof.Machine
end

