-- ==== Sys2Proof/Machine/Operands.lean ====
section
/-! DEFINITION. The implicit operands of the commands (30_encoding.md R73), as they stand at acceptance
(10_state.md R38). -/

namespace Sys2Proof.Machine

/-- KEY[j], at offset 0x200 + j (20_memory.md R52). -/
def keyByte (s : State) (j : Nat) : Byte := s.key.read (keyBase + j)

/-- KEY[0..n-1] (40_key_schedule.md R86). -/
def keyBytes (s : State) (n : Nat) : List Byte := (List.range n).map (keyByte s)

/-- The key lengths INIT takes: 1 <= n <= 528 (40_key_schedule.md R86, 60_exceptions.md R143). -/
def keyLengthOk (n : Nat) : Bool := decide (1 ≤ n) && decide (n ≤ 528)

/-- The operand record of INIT: (KEY[0..n-1], n) with n = KEYLEN.LEN (40_key_schedule.md R96). -/
def initOperands (s : State) : Pending := .init (keyBytes s s.keylen.toNat) s.keylen

/-- The block operand of ENCRYPT and DECRYPT: (DATA_L, DATA_R) (41_block_transform.md R115, R116). -/
def blockOperand (s : State) : Block := { L := s.dataL, R := s.dataR }

end Sys2Proof.Machine
end

