-- ==== Sys2Proof/Machine/BlockCommands.lean ====
section
/-! DEFINITION. The commands of 41_block_transform.md: ENCRYPT and DECRYPT, at acceptance
(60_exceptions.md R141; log 12) and at completion. -/

namespace Sys2Proof.Machine

/-- A block command is taken only when KEYED = 1; else NOT_KEYED (60_exceptions.md R144). -/
def acceptBlock (op : Block → Pending) (s : State) : State :=
  if s.keyed then s.withPending (op (blockOperand s)) else raiseError .notKeyed s

/-- ENCRYPT at acceptance: PENDING <- (ENCRYPT, DATA_L, DATA_R), BUSY <- 1
(41_block_transform.md R115). -/
def execEncrypt (s : State) : Result := .next (unlessBusy s (acceptBlock .encrypt))

/-- DECRYPT at acceptance: PENDING <- (DECRYPT, DATA_L, DATA_R), BUSY <- 1
(41_block_transform.md R116). -/
def execDecrypt (s : State) : Result := .next (unlessBusy s (acceptBlock .decrypt))

/-- ENCRYPT at completion: (DATA_L, DATA_R) <- EncryptBlock(P, S, L, R), BUSY <- 0, PENDING <- empty
(41_block_transform.md R115, R117). -/
def completeEncrypt (p : Params) (b : Block) (s : State) : State :=
  (s.withBlock (encryptBlock p.f s.ctx b)).withIdle

/-- DECRYPT at completion: (DATA_L, DATA_R) <- DecryptBlock(P, S, L, R), BUSY <- 0, PENDING <- empty
(41_block_transform.md R116, R117). -/
def completeDecrypt (p : Params) (b : Block) (s : State) : State :=
  (s.withBlock (decryptBlock p.f s.ctx b)).withIdle

end Sys2Proof.Machine
end

