-- ==== Sys2Proof/Machine/KeySchedule.lean ====
section
/-! DEFINITION. The key schedule (40_key_schedule.md): `runKeySchedule` is the loops of R94, run in place
on whatever the context held before, and `keySchedule` is the function of the key alone that rules R88 to
R93 describe (log 22). -/

namespace Sys2Proof.Machine

/-- P[i] <- v. -/
def setSubkey (c : Context) (i : Nat) (v : Word) : Context := { c with P := c.P.setIfInBounds i v }

/-- S[t][e] <- v. -/
def setEntry (c : Context) (t : Nat) (e : Nat) (v : Word) : Context :=
  { c with S := c.S.setIfInBounds t ((c.S.getD t (Vector.replicate 256 0)).setIfInBounds e v) }

/-- S[t][e] by numbers, for indexes that the loops keep in range (log 23). -/
def entryAt (S : Tables) (t e : Nat) : Word := (S.getD t (Vector.replicate 256 0)).getD e 0

/-- K[j], for an index the schedule keeps below the key's length (log 23). -/
def keyAt (key : List Byte) (j : Nat) : Byte := key.getD j 0

/-! ### The loops of R94 -/

/-- Step 1: S[t][e] <- BASE_S[t][e] for every t and e (40_key_schedule.md R89, R94). -/
@[irreducible] def seedTables (p : Params) (c : Context) : Context :=
  (List.range 8).foldl (fun c t => (List.range 256).foldl (fun c e => setEntry c t e (entryAt p.baseS t e)) c) c

/-- One pass of step 2's inner loop: `d <- (d << 8) | zext_64(K[j])`, `j <- (j + 1) mod n` (R94). -/
def takeKeyByte (key : List Byte) (n : Nat) (x : Word × Nat) : Word × Nat :=
  (x.1 <<< 8 ||| (keyAt key x.2).setWidth 64, (x.2 + 1) % n)

/-- Step 2's inner loop: eight key bytes from running index `j` (R94). -/
def takeKeyWord (key : List Byte) (n j : Nat) : Word × Nat :=
  (List.range 8).foldl (fun x _ => takeKeyByte key n x) (0, j)

/-- Step 2: P[i] <- BASE_P[i] xor the next key word, the running index going on (R90, R94). -/
@[irreducible] def absorbKey (p : Params) (key : List Byte) (n : Nat) (c : Context) : Context :=
  ((List.range 66).foldl
    (fun (x : Context × Nat) i =>
      let w := takeKeyWord key n x.2
      (setSubkey x.1 i (subkey p.baseP i ^^^ w.1), w.2))
    (c, 0)).1

/-- Step 3: 33 chained encryptions overwrite P, left output to the even index (R91, R94). -/
def bootstrapSubkeys (p : Params) (x : Context × Block) : Context × Block :=
  (List.range 33).foldl
    (fun (x : Context × Block) q =>
      let b := encryptBlock p.f x.1 x.2
      (setSubkey (setSubkey x.1 (2 * q) b.L) (2 * q + 1) b.R, b))
    x

/-- Step 4: 1024 encryptions, the chain going on, overwrite S table by table (R92, R93, R94). -/
def bootstrapTables (p : Params) (x : Context × Block) : Context × Block :=
  (List.range 8).foldl
    (fun (x : Context × Block) t =>
      (List.range 128).foldl
        (fun (x : Context × Block) h =>
          let b := encryptBlock p.f x.1 x.2
          (setEntry (setEntry x.1 t (2 * h) b.L) t (2 * h + 1) b.R, b))
        x)
    x

/-- Steps 3 and 4, from the all-zero block (R91, R93, R94). -/
@[irreducible] def bootstrap (p : Params) (c : Context) : Context :=
  (bootstrapTables p (bootstrapSubkeys p (c, { L := 0, R := 0 }))).1

/-- KeySchedule(K, n) of 40_key_schedule.md R94, its four steps in order, overwriting the context `c`
that the engine held before. -/
def runKeySchedule (p : Params) (key : List Byte) (n : Nat) (c : Context) : Context :=
  bootstrap p (absorbKey p key n (seedTables p c))

/-! ### The key schedule as a function of the key -/

/-- KeyWord(K, n, i): eight bytes of the cyclic key from byte 8i on, the first most significant
(40_key_schedule.md R87, R88). -/
def keyWord (key : List Byte) (n i : Nat) : Word :=
  (List.range 8).foldl (fun d k => d <<< 8 ||| (keyAt key ((8 * i + k) % n)).setWidth 64) 0

/-- The context after steps 1 and 2 (40_key_schedule.md R89, R90). -/
def seededContext (p : Params) (key : List Byte) (n : Nat) : Context :=
  { P := Vector.ofFn fun i => subkey p.baseP i.val ^^^ keyWord key n i.val, S := p.baseS }

/-- The context KeySchedule(K, n) gives, a function of the key and the parameters
(40_key_schedule.md R85, R94, R104). -/
def keySchedule (p : Params) (key : List Byte) (n : Nat) : Context :=
  bootstrap p (seededContext p key n)

end Sys2Proof.Machine
end

