-- ==== Sys2Proof/Machine/KeyCommands.lean ====
section
/-! DEFINITION. The commands of 40_key_schedule.md: NOP and INIT. A meaning is what the command does when
it is written to CMD (60_exceptions.md R141), the BUSY_VIOLATION check among it (log 12); what INIT does
at completion is `completeInit`. -/

namespace Sys2Proof.Machine

/-- NOP: nothing; it does not set BUSY and has no completion step (40_key_schedule.md R102). -/
def execNop (s : State) : Result := .next (unlessBusy s id)

/-- INIT at acceptance: BAD_KEYLEN unless 1 <= LEN <= 528, else PENDING <- (INIT, KEY[0..n-1], n),
KEYED <- 0, BUSY <- 1 (40_key_schedule.md R96, 60_exceptions.md R141, R143). -/
def execInit (s : State) : Result :=
  .next (unlessBusy s fun s =>
    if keyLengthOk s.keylen.toNat then (s.withPending (initOperands s)).withKeyed false
    else raiseError .badKeylen s)

/-- INIT at completion: (P, S) <- KeySchedule(K, n), KEYED <- 1, BUSY <- 0, PENDING <- empty
(40_key_schedule.md R96). -/
def completeInit (p : Params) (key : List Byte) (n : BitVec 10) (s : State) : State :=
  ((s.withCtx (runKeySchedule p key n.toNat s.ctx)).withKeyed true).withIdle

end Sys2Proof.Machine
end

