-- ==== Sys2Proof/Machine/Bus.lean ====
section
/-! DEFINITION. The host's accesses to the register window: HostRead and HostWrite (20_memory.md R55, R56),
and how a bus address selects the window (R54). -/

namespace Sys2Proof.Machine

/-- The value an accepted read returns (20_memory.md R55). KEY and CMD read 0; DATA_L and DATA_R read a
free value while BUSY = 1 (log 8). -/
def readValue (off : BitVec 12) (s : State) : Word :=
  match slotAt off with
  | .cmd => 0
  | .status => statusWord s
  | .keylen => s.keylen.setWidth 64
  | .dataL => if s.busy then Config.draw s.free else s.dataL
  | .dataR => if s.busy then Config.draw s.free else s.dataR
  | .key => 0
  | .reserved => 0

/-- Whether an accepted read draws a free value (20_memory.md R55): "afresh each time" (R53). -/
def readDraws (off : BitVec 12) (s : State) : Bool :=
  s.busy && (slotAt off == .dataL || slotAt off == .dataR)

/-- HostRead(addr, size) of 20_memory.md R55: the state after it and the reply. A rejected read records
BUS_ERROR and returns 0. -/
def hostRead (off : BitVec 12) (size : AccessSize) (s : State) : State × Reply :=
  if accepted off size then
    (if readDraws off s then s.withDrawn else s, .data (readValue off s) false)
  else (raiseError .busError s, .data 0 Config.busErrResp)

/-- `Command(v)`: decode the command word and run the command (30_encoding.md R74); a word that is no
command raises ILLEGAL_CMD (60_exceptions.md R142). -/
def command (v : Word) (s : State) : Result :=
  match decode v with
  | .ok i => exec i s
  | .error _ => .next (unlessBusy s (raiseError .illegalCmd))

/-- What an accepted write does at its offset when BUSY = 0 (20_memory.md R56, R52, 10_state.md R29, R32). -/
def writeEffect (off : BitVec 12) (size : AccessSize) (v : Word) (s : State) : Result :=
  match slotAt off with
  | .cmd => command v s
  | .status => .next s
  | .keylen => .next (s.withKeylen (v.setWidth 10))
  | .dataL => .next (s.withDataL v)
  | .dataR => .next (s.withDataR v)
  | .key => .next (s.withKey (s.key.writeLanes off.toNat v (byteCount size)))
  | .reserved => .next s

/-- HostWrite(addr, size, v) of 20_memory.md R56, its checks in the order of 60_exceptions.md R145. -/
def hostWrite (off : BitVec 12) (size : AccessSize) (v : Word) (s : State) : Result :=
  if accepted off size then
    if s.busy then .next (raiseError .busyViolation s) else writeEffect off size v s
  else .next (raiseError .busError s)

/-- The reply to a write: a rejected one carries the bus error response where the platform has one
(60_exceptions.md R139). -/
def writeReply (off : BitVec 12) (size : AccessSize) : Reply :=
  .done (!accepted off size && Config.busErrResp)

/-- One host access takes effect, and its reply is noted. -/
def hostTurn (a : Access) (s : State) : Result :=
  match a with
  | .read off size =>
    let x := hostRead off size s
    .next (x.1.withReply x.2)
  | .write off size v => hostWrite off size v (s.withReply (writeReply off size))

/-- A transaction on the platform's bus, by bus address. -/
inductive Transaction where
  | read (addr : Nat) (size : AccessSize)
  | write (addr : Nat) (size : AccessSize) (v : Word)
deriving DecidableEq, Repr

/-- The window offset of a bus address: the block decodes BFII_BASE + 0x000..0xFFF and nothing else
(20_memory.md R54). -/
@[irreducible] def windowOffset (addr : Nat) : Option (BitVec 12) :=
  if Config.bfiiBase ≤ addr ∧ addr < Config.bfiiBase + 0x1000 then
    some (BitVec.ofNat 12 (addr - Config.bfiiBase))
  else none

/-- The host issues a bus transaction: it joins the agenda if it falls in the window; otherwise the block
does not see it (20_memory.md R54). -/
def issue (x : Transaction) (s : State) : State :=
  match x with
  | .read addr size =>
    match windowOffset addr with
    | some off => s.withAgenda (s.agenda ++ [.host (.read off size)])
    | none => s
  | .write addr size v =>
    match windowOffset addr with
    | some off => s.withAgenda (s.agenda ++ [.host (.write off size v)])
    | none => s

end Sys2Proof.Machine
end

