-- ==== Sys2Proof/Machine/Engine.lean ====
section
/-! DEFINITION. The engine: the one step that completes the command in flight (10_state.md R38,
20_memory.md R49). The parameters are an argument, as 10_state.md R44 asks. -/

namespace Sys2Proof.Machine

/-- Completion, computed from PENDING (10_state.md R38). BUSY = 1 with PENDING empty cannot arise; the
engine then only becomes idle (log 11). -/
def complete (p : Params) (s : State) : State :=
  match s.pending with
  | none => s.withIdle
  | some (.init key n) => completeInit p key n s
  | some (.encrypt b) => completeEncrypt p b s
  | some (.decrypt b) => completeDecrypt p b s

/-- The engine's turn: "enabled exactly when BUSY = 1" (10_state.md R38); else it does nothing. -/
def engineTurn (p : Params) (s : State) : State := if s.busy then complete p s else s

end Sys2Proof.Machine
end

