-- ==== Sys2Proof/Machine/Step.lean ====
section
/-! DEFINITION. One step of the machine: the next turn of the interleaving (20_memory.md R58). -/

namespace Sys2Proof.Machine

/-- One turn. When the agenda is used up a busy engine completes, since "every accepted command completes"
(70_reset_and_hazards.md R173), and an idle block stays as it is (60_exceptions.md R156; log 1, log 2). -/
def step (s : State) : Host.Outcome State Fault Refusal :=
  match s.agenda with
  | [] => .next (engineTurn Config.params s)
  | .host a :: rest => hostTurn a (s.withAgenda rest)
  | .engine :: rest => .next (engineTurn Config.params (s.withAgenda rest))
  | .reset :: rest => .next (applyReset (s.withAgenda rest))

/-- The host's next access is the 8-byte write of command word `w` to CMD (30_encoding.md R70; log 13). -/
def State.withFetchWord (s : State) (nbits w : Nat) : State :=
  s.withAgenda (.host (.write 0x000 .b8 (BitVec.ofNat 64 (w % 2 ^ nbits))) :: s.agenda)

end Sys2Proof.Machine
end

