-- ==== Sys2Proof/Machine/HostSyntax.lean ====
section
/-! DEFINITION. The host assembly syntax of 30_encoding.md R77 and R78, as turns of the agenda. -/

namespace Sys2Proof.Machine

/-- `wr64 OFF, V` (R77). -/
def wr64 (off : BitVec 12) (v : Word) : Turn := .host (.write off .b8 v)
/-- `wr8 OFF, B` (R77). -/
def wr8 (off : BitVec 12) (b : Byte) : Turn := .host (.write off .b1 (b.setWidth 64))
/-- `rd64 OFF -> name` (R77); the value is the access's reply. -/
def rd64 (off : BitVec 12) : Turn := .host (.read off .b8)
/-- `rd8 OFF -> name` (R77). -/
def rd8 (off : BitVec 12) : Turn := .host (.read off .b1)

/-- The register names of R77. -/
def offCmd : BitVec 12 := 0x000
def offStatus : BitVec 12 := 0x008
def offKeylen : BitVec 12 := 0x010
def offDataL : BitVec 12 := 0x020
def offDataR : BitVec 12 := 0x028
def offKey : BitVec 12 := 0x200

/-- `NOP`, `INIT`, `ENC` and `DEC` (R78). -/
def asmNop : List Turn := [wr64 offCmd 0x0]
def asmInit : List Turn := [wr64 offCmd 0x1]
def asmEnc : List Turn := [wr64 offCmd 0x2]
def asmDec : List Turn := [wr64 offCmd 0x3]
/-- `wait` that polls STATUS `polls` times before the completion and once after it: the number of
repetitions is not fixed (R78, 70_reset_and_hazards.md R167). -/
def asmWait (polls : Nat) : List Turn := List.replicate polls (rd64 offStatus) ++ [.engine, rd64 offStatus]
/-- `key b0, b1, ...`: one byte write each, then KEYLEN (R78). -/
def asmKey (bs : List Byte) : List Turn :=
  bs.mapIdx (fun j b => wr8 (offKey + BitVec.ofNat 12 j) b) ++ [wr64 offKeylen (BitVec.ofNat 64 bs.length)]
/-- `block L, R` (R78). -/
def asmBlock (b : Block) : List Turn := [wr64 offDataL b.L, wr64 offDataR b.R]
/-- `result -> l, r` (R78). -/
def asmResult : List Turn := [rd64 offDataL, rd64 offDataR]

end Sys2Proof.Machine
end

