-- ==== Sys2Proof/Safety.lean ====
section
/-! DEFINITION. The terms the claims use: the invariant of the machine, runs of host accesses, what two
states share when they differ only in the secret, and the conformance condition of the parameters. -/

namespace Sys2Proof.Safety

open Sys2Proof.Machine

/-- What holds of every state the machine reaches. -/
structure Inv (s : State) : Prop where
  /-- BUSY is 1 exactly while PENDING holds a command (10_state.md R34, R38). -/
  busy_iff_pending : s.busy = s.pending.isSome
  /-- ERRCODE "holds 0 while ERR = 0" (10_state.md R36). -/
  no_code_without_err : s.err = false → s.errcode = 0
  /-- With ERR = 1, ERRCODE is one of the codes 1..5 (10_state.md R35, R36, 60_exceptions.md R136). -/
  code_with_err : s.err = true → 1 ≤ s.errcode.toNat ∧ s.errcode.toNat ≤ 5
  /-- The key buffer is in canonical form inside the KEY window (log 14). -/
  key_wf : s.key.wf = true
  /-- An INIT in flight holds the key bytes and the length that KEY and KEYLEN still hold, the length is
  in range, and KEYED is 0 (10_state.md R33, R38, 40_key_schedule.md R86). -/
  init_in_flight : ∀ k n, s.pending = some (.init k n) →
    s.keyed = false ∧ n = s.keylen ∧ k = keyBytes s n.toNat ∧ keyLengthOk n.toNat = true
  /-- An ENCRYPT in flight holds the block DATA_L and DATA_R still hold, on a keyed block
  (10_state.md R33, R38). -/
  encrypt_in_flight : ∀ b, s.pending = some (.encrypt b) → s.keyed = true ∧ b = blockOperand s
  /-- A DECRYPT in flight, the same. -/
  decrypt_in_flight : ∀ b, s.pending = some (.decrypt b) → s.keyed = true ∧ b = blockOperand s
  /-- A keyed block's context is the key schedule of some key in range (10_state.md R24). -/
  keyed_context : s.keyed = true →
    ∃ (k : List Byte) (n : Nat), k.length = n ∧ keyLengthOk n = true ∧ s.ctx = keySchedule Config.params k n

/-- The state once the error with code `code` is recorded (60_exceptions.md R138). -/
def recorded (code : BitVec 4) (s : State) : State :=
  if s.err then s else { s with err := true, errcode := code }

/-- The state whose first turn is used up, `rest` being the others, and whose host has got reply `r`. -/
def answered (s : State) (rest : List Turn) (r : Reply) : State :=
  { s with agenda := rest, replies := s.replies ++ [r] }

/-- An offset no register and no key byte stands at (20_memory.md R50, R51). -/
def reservedOffset (a : Nat) : Prop := (0x018 ≤ a ∧ a < 0x020) ∨ (0x030 ≤ a ∧ a < 0x200) ∨ 0x410 ≤ a

/-- The accesses the window rejects, as 60_exceptions.md R139 lists them. -/
def rejectedAccess (off : BitVec 12) (size : AccessSize) : Prop :=
  size = .b2 ∨ size = .b4 ∨
  (size = .b1 ∧ ¬(0x200 ≤ off.toNat ∧ off.toNat ≤ 0x40F)) ∨
  (size = .b8 ∧ off.toNat % 8 ≠ 0) ∨
  (∃ j, j < byteCount size ∧ reservedOffset (off.toNat + j))

/-- It is the engine's turn: the next turn is its own, or no turn is left (log 1, log 2). -/
def engineIsNext (s : State) : Prop := s.agenda = [] ∨ ∃ rest, s.agenda = .engine :: rest

/-- The state with the host accesses `as` as its whole agenda. -/
def withAccesses (as : List Access) (s : State) : State := s.withAgenda (as.map .host)

/-- Two states share everything but the key bytes, the context and the command record: everything the
host can observe through an access (10_state.md R22, R23, R28, R38). -/
structure SameButSecret (s t : State) : Prop where
  keylen : s.keylen = t.keylen
  dataL : s.dataL = t.dataL
  dataR : s.dataR = t.dataR
  busy : s.busy = t.busy
  keyed : s.keyed = t.keyed
  err : s.err = t.err
  errcode : s.errcode = t.errcode
  agenda : s.agenda = t.agenda
  replies : s.replies = t.replies
  free : s.free = t.free

/-- The halves (A_r, B_r) of the recurrence of 41_block_transform.md R119. -/
def recurrence (f : Word → Word) (P : Subkeys) (b : Block) : Nat → Word × Word
  | 0 => (b.L, b.R)
  | r + 1 =>
    let x := recurrence f P b r
    (x.2 ^^^ f (x.1 ^^^ subkey P r), x.1 ^^^ subkey P r)

/-- The exclusive or of P[i] for the listed i (41_block_transform.md R118). -/
def xorSubkeys (P : Subkeys) (is : List Nat) : Word := is.foldl (fun x i => x ^^^ subkey P i) 0

/-- The subkeys reversed: P'[i] = P[65 - i] (41_block_transform.md R111). -/
def reversedSubkeys (P : Subkeys) : Subkeys := Vector.ofFn fun i => subkey P (65 - i.val)

/-- The key `K` written `m` times (40_key_schedule.md R98). -/
def repeatKey (key : List Byte) (m : Nat) : List Byte := (List.replicate m key).flatten

/-- The two entries that bootstrap encryption `j` wrote, as they stand in the finished context `c`, left half
at the lower index: P[2j], P[2j+1] for j in 0..32 (40_key_schedule.md R91), then S[t][2h], S[t][2h+1] for
j = 33 + 128t + h (R92). -/
def bootstrapPair (c : Context) (j : Nat) : Block :=
  if j < 33 then { L := subkey c.P (2 * j), R := subkey c.P (2 * j + 1) }
  else
    { L := entryAt c.S ((j - 33) / 128) (2 * ((j - 33) % 128))
      R := entryAt c.S ((j - 33) / 128) (2 * ((j - 33) % 128) + 1) }

/-- The context bootstrap encryption `j` reads (40_key_schedule.md R93): the entries overwritten by the
encryptions before it as the finished context `c` has them, all others as `c0` had them before the bootstrap. -/
def bootstrapReads (c0 c : Context) (j : Nat) : Context :=
  { P := Vector.ofFn fun i => if i.val / 2 < j then subkey c.P i else subkey c0.P i
    S := Vector.ofFn fun t => Vector.ofFn fun e =>
      if 33 + 128 * t.val + e.val / 2 < j then entryAt c.S t e else entryAt c0.S t e }

/-- One source vector: the key, the plaintext and the ciphertext, both ways (95_test_vectors.md). -/
def Reproduces (p : Params) (key : List Byte) (plain cipher : Block) : Prop :=
  encryptBlock p.f (keySchedule p key key.length) plain = cipher ∧
  decryptBlock p.f (keySchedule p key key.length) cipher = plain

/-- The conformance condition on (BASE_P, BASE_S, F_FN): the source's three vectors S1, S2 and S3
(45_seed_tables.md R128). The spec knows no parameters that meet it (R130), and nothing here assumes
that any do. -/
def Conforms (p : Params) : Prop :=
  Reproduces p [0x54, 0x45, 0x53, 0x54, 0x4B, 0x45, 0x59]
    { L := 0x0000000000000001, R := 0x0000000000000002 }
    { L := 0x7B2B9DE71D1B1C62, R := 0x91C230351177BEE8 } ∧
  Reproduces p [0x41]
    { L := 0x0102030405060708, R := 0x0910111213141516 }
    { L := 0xCA38165603F9915C, R := 0x61F0776A0F55E807 } ∧
  Reproduces p [0x42]
    { L := 0x0102030405060708, R := 0x0910111213141516 }
    { L := 0xD07690A78B109983, R := 0x8DDF85826F2366C2 }

end Sys2Proof.Safety
end

