-- ==== Sys2Proof/Certificates/Slice0/Obligations.lean ====
section
/-! DEFINITION. The statements for the provers. Each says which rules of spec/ it formalises. -/

open Sys2Proof Sys2Proof.Machine Sys2Proof.Safety

/-! ### Encoding -/

/-- 30_encoding.md R70 to R72, 20_memory.md R46: decoding the bytes of a command gives it back with the
rest of the bytes, and bytes that decode are the bytes of that command. -/
def Obligations.DecodeInvertsEncode : Prop :=
  (∀ (i : Instr) (rest : List Byte), i.wellFormed = true →
    decodeBytes (encodeBytes i ++ rest) = .ok (i, rest)) ∧
  (∀ (bs : List Byte) (i : Instr) (rest : List Byte),
    decodeBytes bs = .ok (i, rest) → bs = encodeBytes i ++ rest)

/-- 30_encoding.md R72, R74, R75: of all 64-bit words exactly four decode, each to its command; the rest
are illegal, and they are the words with RSVD not 0 or OP in 0x4..0xF. -/
def Obligations.ExactlyFourWordsAreLegal : Prop :=
  ∀ c : Word,
    (decode c = .ok .nop ↔ c = 0x0000000000000000) ∧
    (decode c = .ok .init ↔ c = 0x0000000000000001) ∧
    (decode c = .ok .encrypt ↔ c = 0x0000000000000002) ∧
    (decode c = .ok .decrypt ↔ c = 0x0000000000000003) ∧
    (decode c = .error .illegal ↔ c >>> 4 ≠ 0 ∨ 4 ≤ c.toNat % 16) ∧
    decode c ≠ .error .truncated

/-- 30_encoding.md R72 and the words of 95_test_vectors.md section 2.5. -/
def Obligations.SampleWordsDecode : Prop :=
  decode 0x0000000000000000 = .ok .nop ∧ decode 0x0000000000000001 = .ok .init ∧
  decode 0x0000000000000002 = .ok .encrypt ∧ decode 0x0000000000000003 = .ok .decrypt ∧
  decode 0x0000000000000004 = .error .illegal ∧ decode 0x000000000000000F = .error .illegal ∧
  decode 0x0000000000000010 = .error .illegal ∧ decode 0x8000000000000002 = .error .illegal

/-! ### A step runs the decoded command -/

/-- 30_encoding.md R70, R74: when the next turn writes a word to CMD that decodes to `i`, the step is
`exec i`, after the turn is taken off the agenda and the write is acknowledged. -/
def Obligations.StepRunsDecodedCommand : Prop :=
  ∀ (s : State) (rest : List Turn) (c : Word) (i : Instr),
    s.agenda = .host (.write 0x000 .b8 c) :: rest → decode c = .ok i → i.wellFormed = true →
    step s = exec i (answered s rest (.done false))

/-- 60_exceptions.md R142: an illegal word on an idle block records ILLEGAL_CMD and nothing else. -/
def Obligations.IllegalWordIsRecorded : Prop :=
  ∀ (s : State) (rest : List Turn) (c : Word),
    s.agenda = .host (.write 0x000 .b8 c) :: rest → s.busy = false →
    (c >>> 4 ≠ 0 ∨ 4 ≤ c.toNat % 16) →
    step s = .next (recorded 1 (answered s rest (.done false)))

/-! ### The commands at acceptance: result, frame and refusal -/

/-- 40_key_schedule.md R102: NOP on an idle block changes nothing at all. -/
def Obligations.NopChangesNothing : Prop :=
  ∀ s : State, s.busy = false → exec .nop s = .next s

/-- 40_key_schedule.md R96, 60_exceptions.md R141: INIT with a length in range records its key bytes and
length, clears KEYED and sets BUSY; nothing else changes. -/
def Obligations.InitIsAccepted : Prop :=
  ∀ s : State, s.busy = false → 1 ≤ s.keylen.toNat → s.keylen.toNat ≤ 528 →
    exec .init s = .next { s with
      pending := some (.init ((List.range s.keylen.toNat).map fun j => s.key.read (0x200 + j)) s.keylen)
      keyed := false, busy := true }

/-- 60_exceptions.md R143: INIT with LEN = 0 or LEN > 528 raises BAD_KEYLEN; nothing else changes. -/
def Obligations.InitOutOfRangeIsRefused : Prop :=
  ∀ s : State, s.busy = false → (s.keylen.toNat = 0 ∨ 528 < s.keylen.toNat) →
    exec .init s = .next (recorded 2 s)

/-- 41_block_transform.md R115, 60_exceptions.md R141: ENCRYPT on a keyed idle block records the block and
sets BUSY; nothing else changes. -/
def Obligations.EncryptIsAccepted : Prop :=
  ∀ s : State, s.busy = false → s.keyed = true →
    exec .encrypt s = .next { s with pending := some (.encrypt ⟨s.dataL, s.dataR⟩), busy := true }

/-- 41_block_transform.md R116, 60_exceptions.md R141: DECRYPT likewise. -/
def Obligations.DecryptIsAccepted : Prop :=
  ∀ s : State, s.busy = false → s.keyed = true →
    exec .decrypt s = .next { s with pending := some (.decrypt ⟨s.dataL, s.dataR⟩), busy := true }

/-- 60_exceptions.md R144: ENCRYPT and DECRYPT with KEYED = 0 raise NOT_KEYED; nothing else changes. -/
def Obligations.UnkeyedBlockCommandsAreRefused : Prop :=
  ∀ s : State, s.busy = false → s.keyed = false →
    exec .encrypt s = .next (recorded 3 s) ∧ exec .decrypt s = .next (recorded 3 s)

/-- 60_exceptions.md R140 for the four commands: while BUSY = 1 each raises BUSY_VIOLATION only. -/
def Obligations.CommandsWhileBusyAreRefused : Prop :=
  ∀ (i : Instr) (s : State), s.busy = true → exec i s = .next (recorded 4 s)

/-- The frame of the four commands at acceptance: no byte of KEY, no data register, no entry of the
context, no KEYLEN and none of the model's own fields changes; KEYED changes only for INIT; and when the
error record changes, BUSY, KEYED and PENDING do not (40_key_schedule.md R101, 60_exceptions.md R146). -/
def Obligations.AcceptanceFrame : Prop :=
  ∀ (i : Instr) (s t : State), exec i s = .next t →
    (∀ a, t.key.read a = s.key.read a) ∧ t.key = s.key ∧ t.ctx = s.ctx ∧ t.keylen = s.keylen ∧
    t.dataL = s.dataL ∧ t.dataR = s.dataR ∧
    t.agenda = s.agenda ∧ t.replies = s.replies ∧ t.free = s.free ∧
    (i ≠ .init → t.keyed = s.keyed) ∧ (i = .nop → t.busy = s.busy ∧ t.pending = s.pending) ∧
    (t.err = s.err ∧ t.errcode = s.errcode ∨
      t.busy = s.busy ∧ t.keyed = s.keyed ∧ t.pending = s.pending)

/-! ### The commands at completion -/

/-- 40_key_schedule.md R96: INIT with a length in range is accepted, and at its completion the context is
KeySchedule of the key bytes, KEYED is 1, the block is idle, and nothing else has changed. -/
def Obligations.InitBuildsTheKeySchedule : Prop :=
  ∀ (s : State) (rest : List Turn), s.busy = false → 1 ≤ s.keylen.toNat → s.keylen.toNat ≤ 528 →
    ∃ t, exec .init s = .next t ∧
      step { t with agenda := .engine :: rest } = .next { s with
        ctx := keySchedule Config.params
          ((List.range s.keylen.toNat).map fun j => s.key.read (0x200 + j)) s.keylen.toNat
        keyed := true, busy := false, pending := none, agenda := rest }

/-- 41_block_transform.md R115, R117: ENCRYPT on a keyed idle block is accepted, and at its completion
DATA_L and DATA_R hold EncryptBlock of what they held, and nothing else has changed. -/
def Obligations.EncryptReplacesTheBlock : Prop :=
  ∀ (s : State) (rest : List Turn), s.busy = false → s.keyed = true →
    ∃ t, exec .encrypt s = .next t ∧
      step { t with agenda := .engine :: rest } = .next { s with
        dataL := (encryptBlock Config.fFn s.ctx ⟨s.dataL, s.dataR⟩).L
        dataR := (encryptBlock Config.fFn s.ctx ⟨s.dataL, s.dataR⟩).R
        pending := none, agenda := rest }

/-- 41_block_transform.md R116, R117: DECRYPT likewise with DecryptBlock. -/
def Obligations.DecryptReplacesTheBlock : Prop :=
  ∀ (s : State) (rest : List Turn), s.busy = false → s.keyed = true →
    ∃ t, exec .decrypt s = .next t ∧
      step { t with agenda := .engine :: rest } = .next { s with
        dataL := (decryptBlock Config.fFn s.ctx ⟨s.dataL, s.dataR⟩).L
        dataR := (decryptBlock Config.fFn s.ctx ⟨s.dataL, s.dataR⟩).R
        pending := none, agenda := rest }

/-- 41_block_transform.md R112, R116 on the machine: on a keyed idle block, ENCRYPT to completion and then
DECRYPT to completion bring back the whole state, and so the other way round. -/
def Obligations.BlockCommandsUndoEachOther : Prop :=
  ∀ (s : State) (rest : List Turn), s.busy = false → s.keyed = true → s.pending = none →
    (∃ t u v, exec .encrypt s = .next t ∧ step { t with agenda := .engine :: rest } = .next u ∧
      exec .decrypt u = .next v ∧ step { v with agenda := .engine :: rest } = .next { s with agenda := rest }) ∧
    (∃ t u v, exec .decrypt s = .next t ∧ step { t with agenda := .engine :: rest } = .next u ∧
      exec .encrypt u = .next v ∧ step { v with agenda := .engine :: rest } = .next { s with agenda := rest })

/-- The frame of a completion: KEY, KEYLEN, the error record and the replies never change; the context
changes only for INIT, the data registers and KEYED not otherwise (40_key_schedule.md R101,
41_block_transform.md R115, R116, 10_state.md R38). The engine's turn is its own turn on the agenda or an empty
agenda; that a busy engine completes on an empty agenda is the model's choice (log 2), and so is that BUSY = 1
with PENDING empty, which no run reaches, only becomes idle (log 11). -/
def Obligations.CompletionFrame : Prop :=
  ∀ s : State, s.busy = true → engineIsNext s →
    ∃ t, step s = .next t ∧ t.busy = false ∧ t.pending = none ∧
      (∀ a, t.key.read a = s.key.read a) ∧ t.key = s.key ∧ t.keylen = s.keylen ∧ t.err = s.err ∧
      t.errcode = s.errcode ∧ t.replies = s.replies ∧ t.free = s.free ∧
      ((∃ k n, s.pending = some (.init k n)) → t.dataL = s.dataL ∧ t.dataR = s.dataR ∧ t.keyed = true) ∧
      ((¬∃ k n, s.pending = some (.init k n)) → t.ctx = s.ctx ∧ t.keyed = s.keyed)

/-- 10_state.md R27, R86: INIT takes KEY[0..LEN-1] only. Changing key bytes beyond the length changes
nothing of the command record. -/
def Obligations.InitReadsOnlyTheKeyBytes : Prop :=
  ∀ (s : State) (m : Memory), s.busy = false → 1 ≤ s.keylen.toNat → s.keylen.toNat ≤ 528 →
    (∀ j, j < s.keylen.toNat → m.read (0x200 + j) = s.key.read (0x200 + j)) →
    ∃ t u, exec .init s = .next t ∧ exec .init { s with key := m } = .next u ∧ u = { t with key := m }

/-! ### Host reads -/

/-- 20_memory.md R55: what each accepted read returns; nothing changes but the agenda, the replies and,
for a read of DATA_L or DATA_R while BUSY = 1, the count of free values drawn (the form of that free value is
the model's choice, log 8). -/
def Obligations.AcceptedReadsReturn : Prop :=
  ∀ (s : State) (rest : List Turn) (off : BitVec 12) (size : AccessSize),
    s.agenda = .host (.read off size) :: rest →
    (size = .b8 → off = 0x000 → step s = .next (answered s rest (.data 0 false))) ∧
    (size = .b8 → off = 0x008 → step s = .next (answered s rest (.data
      (s.errcode.setWidth 64 <<< 4 ||| (BitVec.ofBool s.err).setWidth 64 <<< 2 |||
        (BitVec.ofBool s.keyed).setWidth 64 <<< 1 ||| (BitVec.ofBool s.busy).setWidth 64) false))) ∧
    (size = .b8 → off = 0x010 → step s = .next (answered s rest (.data (s.keylen.setWidth 64) false))) ∧
    (size = .b8 → off = 0x020 → s.busy = false →
      step s = .next (answered s rest (.data s.dataL false))) ∧
    (size = .b8 → off = 0x028 → s.busy = false →
      step s = .next (answered s rest (.data s.dataR false))) ∧
    (size = .b8 → off = 0x020 ∨ off = 0x028 → s.busy = true →
      step s = .next { answered s rest (.data (Config.draw s.free) false) with free := s.free + 1 }) ∧
    (size = .b8 → 0x200 ≤ off.toNat → off.toNat ≤ 0x408 → off.toNat % 8 = 0 →
      step s = .next (answered s rest (.data 0 false))) ∧
    (size = .b1 → 0x200 ≤ off.toNat → off.toNat ≤ 0x40F →
      step s = .next (answered s rest (.data 0 false)))

/-- 10_state.md R32: the layout of STATUS as a read returns it, that writing it is ignored except for
BUSY_VIOLATION, and its reset values. -/
def Obligations.StatusRegisterLayout : Prop :=
  (∀ (s : State) (rest : List Turn), s.agenda = .host (.read 0x008 .b8) :: rest →
    ∃ v : Word, step s = .next (answered s rest (.data v false)) ∧
      v.getLsbD 0 = s.busy ∧ v.getLsbD 1 = s.keyed ∧ v.getLsbD 2 = s.err ∧ v.getLsbD 3 = false ∧
      v.extractLsb' 4 4 = s.errcode ∧ v.extractLsb' 8 56 = 0) ∧
  (∀ (s : State) (rest : List Turn) (w : Word), s.agenda = .host (.write 0x008 .b8 w) :: rest →
    (s.busy = false → step s = .next (answered s rest (.done false))) ∧
    (s.busy = true → step s = .next (recorded 4 (answered s rest (.done false))))) ∧
  State.reset.busy = false ∧ State.reset.keyed = false ∧ State.reset.err = false ∧
  State.reset.errcode = 0

/-! ### Host writes -/

/-- 20_memory.md R56, 10_state.md R29 to R31: writing KEYLEN keeps bits 9:0 of the value, writing DATA_L
or DATA_R all of it; nothing else changes. -/
def Obligations.RegisterWritesStore : Prop :=
  ∀ (s : State) (rest : List Turn) (v : Word), s.busy = false →
    (s.agenda = .host (.write 0x010 .b8 v) :: rest →
      step s = .next { answered s rest (.done false) with keylen := v.extractLsb' 0 10 }) ∧
    (s.agenda = .host (.write 0x020 .b8 v) :: rest →
      step s = .next { answered s rest (.done false) with dataL := v }) ∧
    (s.agenda = .host (.write 0x028 .b8 v) :: rest →
      step s = .next { answered s rest (.done false) with dataR := v })

/-- 20_memory.md R52, R46: a 1-byte write at 0x200 + j sets KEY[j] to bits 7:0 of the value, an 8-byte
write at 0x200 + 8w sets KEY[8w + i] to byte lane i; every other byte reads as before and nothing else
changes. (That the buffer keeps its canonical form, `m.wf`, is the model's choice, log 14.) -/
def Obligations.KeyWindowWritesStoreBytes : Prop :=
  ∀ (s : State) (rest : List Turn) (v : Word), s.busy = false → s.key.wf = true →
    (∀ (off : BitVec 12) (j : Nat), j < 528 → off.toNat = 0x200 + j →
      s.agenda = .host (.write off .b1 v) :: rest →
      ∃ m : Memory, step s = .next { answered s rest (.done false) with key := m } ∧ m.wf = true ∧
        ∀ a, m.read a = if a = 0x200 + j then v.extractLsb' 0 8 else s.key.read a) ∧
    (∀ (off : BitVec 12) (w : Nat), w < 66 → off.toNat = 0x200 + 8 * w →
      s.agenda = .host (.write off .b8 v) :: rest →
      ∃ m : Memory, step s = .next { answered s rest (.done false) with key := m } ∧ m.wf = true ∧
        (∀ i, i < 8 → m.read (0x200 + 8 * w + i) = v.extractLsb' (8 * i) 8) ∧
        ∀ a, (a < 0x200 + 8 * w ∨ 0x200 + 8 * w + 8 ≤ a) → m.read a = s.key.read a)

/-- 60_exceptions.md R139: the accesses the window rejects are those the rule lists, and a rejected one
records BUS_ERROR and nothing else; a rejected read returns 0. -/
def Obligations.RejectedAccessesRecordBusError : Prop :=
  (∀ (off : BitVec 12) (size : AccessSize), accepted off size = false ↔ rejectedAccess off size) ∧
  (∀ (s : State) (rest : List Turn) (off : BitVec 12) (size : AccessSize), rejectedAccess off size →
    (s.agenda = .host (.read off size) :: rest →
      step s = .next (recorded 5 (answered s rest (.data 0 Config.busErrResp)))) ∧
    (∀ v, s.agenda = .host (.write off size v) :: rest →
      step s = .next (recorded 5 (answered s rest (.done Config.busErrResp)))))

/-- 60_exceptions.md R140: every accepted-size write while BUSY = 1 records BUSY_VIOLATION and changes
nothing else, so a completion still writes what it would have written; no read while BUSY = 1 records it. -/
def Obligations.WritesWhileBusyAreRefused : Prop :=
  ∀ (s : State) (rest : List Turn) (off : BitVec 12) (size : AccessSize), s.busy = true →
    (∀ v, ¬rejectedAccess off size → s.agenda = .host (.write off size v) :: rest →
      step s = .next (recorded 4 (answered s rest (.done false)))) ∧
    (s.agenda = .host (.read off size) :: rest →
      ∃ t, step s = .next t ∧
        (¬rejectedAccess off size → t.err = s.err ∧ t.errcode = s.errcode) ∧
        (rejectedAccess off size → t.err = true ∧ t.errcode = if s.err then s.errcode else 5))

/-- 60_exceptions.md R145, R142 to R144: with no error recorded yet, a write raises an error exactly when
one of its checks fails, and ERRCODE holds the code of the first that fails. -/
def Obligations.FirstFailingCheckIsRecorded : Prop :=
  ∀ (s : State) (rest : List Turn) (off : BitVec 12) (size : AccessSize) (v : Word),
    s.err = false → s.errcode = 0 → s.agenda = .host (.write off size v) :: rest →
    ∃ t, step s = .next t ∧ (t.err = true ↔ t.errcode ≠ 0) ∧
      t.errcode =
        if accepted off size = false then 5
        else if s.busy = true then 4
        else if off ≠ 0x000 then 0
        else match decode v with
          | .error _ => 1
          | .ok .nop => 0
          | .ok .init => if s.keylen.toNat = 0 ∨ 528 < s.keylen.toNat then 2 else 0
          | .ok .encrypt => if s.keyed = false then 3 else 0
          | .ok .decrypt => if s.keyed = false then 3 else 0

/-! ### The error record -/

/-- 60_exceptions.md R138 with the codes of R136: the first error is recorded, a later one is not. -/
def Obligations.RaiseRecordsTheFirstError : Prop :=
  ∀ s : State,
    (s.err = false →
      raiseError .illegalCmd s = { s with err := true, errcode := 1 } ∧
      raiseError .badKeylen s = { s with err := true, errcode := 2 } ∧
      raiseError .notKeyed s = { s with err := true, errcode := 3 } ∧
      raiseError .busyViolation s = { s with err := true, errcode := 4 } ∧
      raiseError .busError s = { s with err := true, errcode := 5 }) ∧
    (s.err = true → ∀ e, raiseError e s = s)

/-- 60_exceptions.md R137: only reset clears the error record; every other turn keeps the first error;
writes to STATUS are ignored. -/
def Obligations.ErrorRecordIsSticky : Prop :=
  (∀ s t : State, step s = .next t → s.err = true → (¬∃ rest, s.agenda = .reset :: rest) →
    t.err = true ∧ t.errcode = s.errcode) ∧
  (∀ (s : State) (rest : List Turn), s.agenda = .reset :: rest →
    ∃ t, step s = .next t ∧ t.err = false ∧ t.errcode = 0) ∧
  (∀ (s : State) (rest : List Turn) (v : Word), s.agenda = .host (.write 0x008 .b8 v) :: rest →
    s.busy = false → step s = .next (answered s rest (.done false)))

/-- 60_exceptions.md R146: a turn that changes the error record, reset apart, changes nothing else of the
block. -/
def Obligations.ErrorsHaveNoOtherEffect : Prop :=
  ∀ s t : State, step s = .next t → (¬∃ rest, s.agenda = .reset :: rest) →
    (t.err ≠ s.err ∨ t.errcode ≠ s.errcode) →
    ∃ a rest r, s.agenda = .host a :: rest ∧
      t = { answered s rest r with err := t.err, errcode := t.errcode }

/-! ### Rules of the whole machine -/

/-- 60_exceptions.md R135: the block never traps and never stops: every step answers a next state. -/
def Obligations.EveryStepAnswersNext : Prop :=
  ∀ s : State, ∃ t, step s = .next t

/-- The invariant of the machine (10_state.md R24, R33 to R36, R38; its clause on the form of the key buffer
is the model's choice, log 14) is kept by every step. -/
def Obligations.StepKeepsTheInvariant : Prop :=
  ∀ s t : State, Inv s → step s = .next t → Inv t

/-- The machine after reset meets the invariant (its clause on the form of the key buffer is the model's choice,
log 14), whatever the host is about to do. -/
def Obligations.ResetMeetsTheInvariant : Prop :=
  Inv State.reset ∧ ∀ agenda : List Turn, Inv { State.reset with agenda := agenda }

/-- 10_state.md R22, R23, R24: a step leaves P and S as they are unless it completes an INIT, which writes
KeySchedule of the recorded key, or it is a reset, which clears KEYED. -/
def Obligations.OnlyInitWritesTheContext : Prop :=
  ∀ s t : State, step s = .next t →
    t.ctx = s.ctx ∨
    (engineIsNext s ∧ s.busy = true ∧ ∃ k n, s.pending = some (.init k n) ∧
      t.ctx = keySchedule Config.params k n.toNat ∧ t.keyed = true) ∨
    (∃ rest, s.agenda = .reset :: rest ∧ t.keyed = false)

/-- 10_state.md R27, R29, R30, R31: KEY and KEYLEN change only by host writes to them on an idle block,
DATA_L and DATA_R by those or by the completion of ENCRYPT or DECRYPT, resets apart. -/
def Obligations.WritersOfTheHostRegisters : Prop :=
  ∀ s t : State, step s = .next t → (¬∃ rest, s.agenda = .reset :: rest) →
    (t.key ≠ s.key → s.busy = false ∧ ∃ off size v rest,
      s.agenda = .host (.write off size v) :: rest ∧ 0x200 ≤ off.toNat ∧ off.toNat < 0x410) ∧
    (t.keylen ≠ s.keylen → s.busy = false ∧ ∃ v rest,
      s.agenda = .host (.write 0x010 .b8 v) :: rest) ∧
    (t.dataL ≠ s.dataL →
      (s.busy = false ∧ ∃ v rest, s.agenda = .host (.write 0x020 .b8 v) :: rest) ∨
      (s.busy = true ∧ engineIsNext s ∧ ∃ b, s.pending = some (.encrypt b) ∨ s.pending = some (.decrypt b))) ∧
    (t.dataR ≠ s.dataR →
      (s.busy = false ∧ ∃ v rest, s.agenda = .host (.write 0x028 .b8 v) :: rest) ∨
      (s.busy = true ∧ engineIsNext s ∧ ∃ b, s.pending = some (.encrypt b) ∨ s.pending = some (.decrypt b)))

/-- 10_state.md R33: KEYED becomes 1 only by the completion of an INIT and 0 only when an INIT is accepted
or by reset, and each of the three does so. (The engine's turn is its own turn or an empty agenda; that it
completes on an empty agenda is the model's choice, log 2.) -/
def Obligations.KeyedChangesOnlyByInitAndReset : Prop :=
  ∀ s t : State, step s = .next t →
    (s.keyed = false → t.keyed = true →
      engineIsNext s ∧ s.busy = true ∧ ∃ k n, s.pending = some (.init k n)) ∧
    (s.keyed = true → t.keyed = false →
      (∃ rest, s.agenda = .reset :: rest) ∨
      (s.busy = false ∧ 1 ≤ s.keylen.toNat ∧ s.keylen.toNat ≤ 528 ∧
        ∃ rest, s.agenda = .host (.write 0x000 .b8 0x0000000000000001) :: rest)) ∧
    (engineIsNext s → s.busy = true → (∃ k n, s.pending = some (.init k n)) → t.keyed = true) ∧
    ((∃ rest, s.agenda = .host (.write 0x000 .b8 0x0000000000000001) :: rest) → s.busy = false →
      1 ≤ s.keylen.toNat → s.keylen.toNat ≤ 528 → t.keyed = false) ∧
    ((∃ rest, s.agenda = .reset :: rest) → t.keyed = false)

/-- 10_state.md R34: BUSY becomes 1 only when INIT, ENCRYPT or DECRYPT is written and accepted, and 0 only
by a completion or a reset, each of which does so. (The engine's turn is its own turn or an empty agenda; that it
completes on an empty agenda is the model's choice, log 2, and that BUSY = 1 with PENDING empty, which no run
reaches, then only becomes idle is log 11.) -/
def Obligations.BusyChangesOnlyByCommandAndEngine : Prop :=
  ∀ s t : State, step s = .next t →
    (s.busy = false → t.busy = true →
      ∃ c i rest, s.agenda = .host (.write 0x000 .b8 c) :: rest ∧ decode c = .ok i ∧ i ≠ .nop ∧
        (i = .init → 1 ≤ s.keylen.toNat ∧ s.keylen.toNat ≤ 528) ∧ (i ≠ .init → s.keyed = true)) ∧
    (s.busy = true → t.busy = false → engineIsNext s ∨ ∃ rest, s.agenda = .reset :: rest) ∧
    (s.busy = true → engineIsNext s → t.busy = false ∧ t.pending = none) ∧
    ((∃ rest, s.agenda = .reset :: rest) → t.busy = false)

/-- 60_exceptions.md R140, 10_state.md R38: host accesses, however many, leave a command in flight and
what its completion will write as they were. -/
def Obligations.CommandInFlightIsUndisturbed : Prop :=
  ∀ (s : State) (as : List Access), s.busy = true →
    ∃ t, Sys2Proof.core.run as.length (withAccesses as s) = .next t ∧
      t.busy = true ∧ t.pending = s.pending ∧ t.ctx = s.ctx ∧ t.key = s.key ∧ t.keylen = s.keylen ∧
      t.dataL = s.dataL ∧ t.dataR = s.dataR ∧ t.keyed = s.keyed ∧
      ∃ u v, step { t with agenda := [.engine] } = .next u ∧ step { s with agenda := [.engine] } = .next v ∧
        u.ctx = v.ctx ∧ u.dataL = v.dataL ∧ u.dataR = v.dataR ∧ u.keyed = v.keyed

/-- 70_reset_and_hazards.md R173: a command in flight completes or is reset within one step more than the
turns still to come. (That the engine acts once no turn is left is the model's choice, log 2.) -/
def Obligations.CommandInFlightCompletes : Prop :=
  ∀ s : State, s.busy = true →
    ∃ k t, k ≤ s.agenda.length + 1 ∧ Sys2Proof.core.run k s = .next t ∧ t.busy = false ∧ t.pending = none

/-- 10_state.md R22, R23, R28, 60_exceptions.md R155: host accesses alone, with no completion among them,
tell the host nothing of the key bytes, the context or the command in flight: two machines that differ
only there give the same replies and differ only there afterwards. (That reads of DATA_L and DATA_R while
BUSY = 1 give both machines the same values is the model's choice, log 8: the value drawn depends on the count
of draws alone. 20_memory.md R55 leaves it unspecified; 93_implementation_defined.md U1 calls the draw
"independent of everything", and 92_eei_decisions.md D14 lets an implementation use DATA as working storage.) -/
def Obligations.HostAccessesDoNotRevealTheKey : Prop :=
  ∀ (s t : State) (as : List Access), SameButSecret s t →
    ∃ s' t', Sys2Proof.core.run as.length (withAccesses as s) = .next s' ∧
      Sys2Proof.core.run as.length (withAccesses as t) = .next t' ∧
      SameButSecret s' t'

/-! ### Reset -/

/-- 70_reset_and_hazards.md R160, 10_state.md R27 to R38: what reset leaves, P and S apart. (That
the key buffer is then in canonical form, `key.wf`, is the model's choice, log 14.) -/
def Obligations.ResetState : Prop :=
  (∀ a, State.reset.key.read a = 0) ∧ State.reset.key.wf = true ∧ State.reset.keylen = 0 ∧
  State.reset.dataL = 0 ∧ State.reset.dataR = 0 ∧ State.reset.busy = false ∧ State.reset.keyed = false ∧
  State.reset.err = false ∧ State.reset.errcode = 0 ∧ State.reset.pending = none

/-- 70_reset_and_hazards.md R161: a reset, with a command in flight or not, empties PENDING, writes no
result, leaves the values of R160, and ENCRYPT and DECRYPT are then refused. (That the turns to come and the
replies given stay is the model's choice, log 15, and so is the canonical form of the key buffer, `key.wf`,
log 14.) -/
def Obligations.ResetAbandonsTheCommand : Prop :=
  ∀ (s : State) (rest : List Turn), s.agenda = .reset :: rest →
    ∃ t, step s = .next t ∧ (∀ a, t.key.read a = 0) ∧ t.key.wf = true ∧ t.keylen = 0 ∧ t.dataL = 0 ∧
      t.dataR = 0 ∧ t.busy = false ∧ t.keyed = false ∧ t.err = false ∧ t.errcode = 0 ∧
      t.pending = none ∧ t.agenda = rest ∧ t.replies = s.replies ∧
      exec .encrypt t = .next (recorded 3 t) ∧ exec .decrypt t = .next (recorded 3 t)

/-! ### The window and the key buffer -/

/-- 20_memory.md R54: BFII_BASE is a multiple of 0x1000; a transaction at BFII_BASE + off is an access at
offset off, and one outside the window is not seen. -/
def Obligations.WindowIsSelectedByAddress : Prop :=
  Config.bfiiBase % 0x1000 = 0 ∧
  (∀ (s : State) (off : BitVec 12) (size : AccessSize) (v : Word),
    issue (.read (Config.bfiiBase + off.toNat) size) s =
      { s with agenda := s.agenda ++ [.host (.read off size)] } ∧
    issue (.write (Config.bfiiBase + off.toNat) size v) s =
      { s with agenda := s.agenda ++ [.host (.write off size v)] }) ∧
  (∀ (s : State) (addr : Nat) (size : AccessSize) (v : Word),
    (addr < Config.bfiiBase ∨ Config.bfiiBase + 0x1000 ≤ addr) →
    issue (.read addr size) s = s ∧ issue (.write addr size v) s = s)

/-- The model's canonical form of the key buffer (log 14, for 10_state.md R27): key buffers with the same
bytes are the same data. -/
def Obligations.KeyBufferFormIsCanonical : Prop :=
  ∀ m m' : Memory, m.wf = true → m'.wf = true → (∀ a, m.read a = m'.read a) → m = m'

/-! ### The round function and the block functions -/

/-- 41_block_transform.md R108: the corner cases of F_ALT8, its worked example, and that it depends on
each of its eight lanes, with all 8 bits of the lane: any two arguments that differ in one lane only are told
apart by some tables. -/
def Obligations.RoundFunctionCornerCases : Prop :=
  (∀ x, fAlt8 (Vector.replicate 8 (Vector.replicate 256 0xFFFFFFFFFFFFFFFF)) x = 0) ∧
  (∀ x, fAlt8 (Vector.replicate 8 (Vector.replicate 256 0)) x = 0) ∧
  fAlt8 (Vector.ofFn fun t : Fin 8 => Vector.ofFn fun e : Fin 256 =>
    BitVec.ofNat 64 (t.val * 0x100 + e.val)) 0x0001020304050607 = 0x0000000000000808 ∧
  (∀ (t : Fin 8) (x y : Word), x ≠ y →
    (∀ u : Fin 8, u ≠ t → x.extractLsb' (8 * (7 - u.val)) 8 = y.extractLsb' (8 * (7 - u.val)) 8) →
    ∃ S : Tables, fAlt8 S x ≠ fAlt8 S y)

/-- 41_block_transform.md R112: DecryptBlock inverts EncryptBlock and the other way round, for every P, S,
F_FN and block. -/
def Obligations.DecryptInvertsEncrypt : Prop :=
  ∀ (f : Tables → Word → Word) (c : Context) (b : Block),
    decryptBlock f c (encryptBlock f c b) = b ∧ encryptBlock f c (decryptBlock f c b) = b

/-- 41_block_transform.md R111: decryption is encryption with the subkeys reversed. -/
def Obligations.DecryptIsEncryptWithReversedSubkeys : Prop :=
  ∀ (f : Tables → Word → Word) (c : Context) (b : Block),
    (∀ i, i < 66 → subkey (reversedSubkeys c.P) i = subkey c.P (65 - i)) ∧
    decryptBlock f c b = encryptBlock f { c with P := reversedSubkeys c.P } b

/-- 41_block_transform.md R119: EncryptBlock in recurrence form, and (A_r, B_r) as the halves at the top of
round r. -/
def Obligations.EncryptFollowsTheRecurrence : Prop :=
  ∀ (f : Tables → Word → Word) (c : Context) (b : Block),
    (∀ r, r ≤ 64 →
      (List.range r).foldl (fun x r => feistelRound (f c.S) (subkey c.P r) x) b =
        { L := (recurrence (f c.S) c.P b r).1, R := (recurrence (f c.S) c.P b r).2 }) ∧
    encryptBlock f c b =
      { L := (recurrence (f c.S) c.P b 64).2 ^^^ subkey c.P 65
        R := (recurrence (f c.S) c.P b 64).1 ^^^ subkey c.P 64 }

/-- 41_block_transform.md R118: with F = 0 (for F_ALT8, with every entry 0), each half meets the subkeys of
alternate rounds and the halves leave exchanged; and the worked example. -/
def Obligations.LinearCaseOfEncrypt : Prop :=
  (∀ (f : Tables → Word → Word) (c : Context) (b : Block), (∀ x, f c.S x = 0) →
    encryptBlock f c b =
      { L := b.R ^^^ xorSubkeys c.P ((List.range 32).map fun i => 2 * i + 1) ^^^ subkey c.P 65
        R := b.L ^^^ xorSubkeys c.P ((List.range 32).map fun i => 2 * i) ^^^ subkey c.P 64 }) ∧
  (∀ x, fAlt8 (Vector.replicate 8 (Vector.replicate 256 0)) x = 0) ∧
  encryptBlock (fun _ _ => 0)
    { P := Vector.ofFn fun i : Fin 66 => BitVec.ofNat 64 i.val
      S := Vector.replicate 8 (Vector.replicate 256 0) } { L := 0, R := 0 } = { L := 0x41, R := 0x40 }

/-- 41_block_transform.md R113: the net effect of the swaps is an exchange after rounds 0..62 and none
after round 63, in both directions. -/
def Obligations.NetEffectOfTheSwaps : Prop :=
  ∀ (f : Tables → Word → Word) (c : Context) (b : Block),
    encryptBlock f c b =
      (let x := (List.range 63).foldl (fun x r => feistelRound (f c.S) (subkey c.P r) x) b
       let l := x.L ^^^ subkey c.P 63
       { L := l ^^^ subkey c.P 65, R := (x.R ^^^ f c.S l) ^^^ subkey c.P 64 }) ∧
    decryptBlock f c b =
      (let x := (List.range 63).foldl (fun x r => feistelRound (f c.S) (subkey c.P (65 - r)) x) b
       let l := x.L ^^^ subkey c.P 2
       { L := l ^^^ subkey c.P 0, R := (x.R ^^^ f c.S l) ^^^ subkey c.P 1 })

/-! ### The key schedule -/

/-- 40_key_schedule.md R87, R88: byte k of key word i, the first most significant, is key byte
(8i + k) mod n of the running sequence, and the words are absorbed into P from BASE_P (R90). -/
def Obligations.KeyWordsTakeTheKeyCyclically : Prop :=
  (∀ (key : List Byte) (n i k : Nat), k < 8 →
    (keyWord key n i).extractLsb' (8 * (7 - k)) 8 = keyAt key ((8 * i + k) % n)) ∧
  (∀ (p : Params) (key : List Byte) (n : Nat) (c : Context) (i : Nat), i < 66 →
    subkey (absorbKey p key n c).P i = subkey p.baseP i ^^^ keyWord key n i)

/-- 40_key_schedule.md R97 (with R94 and R95): the loops of the key schedule, run on any earlier context,
give the one context that the key and the parameters determine; so the completion of an INIT, whatever the
block held before, writes KeySchedule of the recorded key. -/
def Obligations.RekeyingForgetsTheEarlierContext : Prop :=
  (∀ (p : Params) (key : List Byte) (n : Nat) (c : Context),
    runKeySchedule p key n c = keySchedule p key n) ∧
  (∀ (s : State) (rest : List Turn) (key : List Byte) (n : BitVec 10), s.busy = true →
    s.pending = some (.init key n) → s.agenda = .engine :: rest →
    step s = .next { s with
      ctx := keySchedule Config.params key n.toNat
      keyed := true, busy := false, pending := none, agenda := rest })

/-- 40_key_schedule.md R98: a key repeated m times, within 528 bytes, gives the same context, in KeySchedule
and on the machine; a longer repetition is refused; and extending a key to the next multiple of 8 bytes does
not give the same key words. -/
def Obligations.RepeatedKeyGivesTheSameContext : Prop :=
  (∀ (p : Params) (key : List Byte) (m : Nat), 1 ≤ key.length → 1 ≤ m → m * key.length ≤ 528 →
    keySchedule p (repeatKey key m) (m * key.length) = keySchedule p key key.length) ∧
  (∀ (s u : State) (m : Nat), s.busy = false → u.busy = false → 1 ≤ s.keylen.toNat → 1 ≤ m →
    u.keylen.toNat = m * s.keylen.toNat →
    (m * s.keylen.toNat ≤ 528 →
      (∀ j, j < m * s.keylen.toNat → u.key.read (0x200 + j) = s.key.read (0x200 + j % s.keylen.toNat)) →
      ∃ t v t' v', exec .init s = .next t ∧ step { t with agenda := [.engine] } = .next t' ∧
        exec .init u = .next v ∧ step { v with agenda := [.engine] } = .next v' ∧
        t'.ctx = v'.ctx ∧ t'.keyed = true ∧ v'.keyed = true) ∧
    (528 < m * s.keylen.toNat → exec .init u = .next (recorded 2 u))) ∧
  keyWord [0x54, 0x45, 0x53, 0x54, 0x4B, 0x45, 0x59, 0x54] 8 1 ≠
    keyWord [0x54, 0x45, 0x53, 0x54, 0x4B, 0x45, 0x59] 7 1

/-- 40_key_schedule.md R91, R92, R93 (after steps 1 and 2, R89, R90): the bootstrap. Encryption 0 encrypts the
zero block with the seeded context; every later one encrypts the output of the one before, with a context whose
entries are those written so far and, elsewhere, the seeded ones; and the outputs fill P and then the tables in
index order, left half at the even index, with the chain going on from P[64], P[65] into S[0][0], S[0][1]. These
equations settle every entry of KeySchedule(K, n). -/
def Obligations.BootstrapChainFillsTheContext : Prop :=
  ∀ (p : Params) (key : List Byte) (n : Nat),
    let c0 := seededContext p key n
    let c := keySchedule p key n
    (∀ i, i < 66 → subkey c0.P i = subkey p.baseP i ^^^ keyWord key n i) ∧
    (∀ t e, t < 8 → e < 256 → entryAt c0.S t e = entryAt p.baseS t e) ∧
    bootstrapPair c 0 = encryptBlock p.f c0 { L := 0, R := 0 } ∧
    ∀ j, j < 1056 →
      bootstrapPair c (j + 1) = encryptBlock p.f (bootstrapReads c0 c (j + 1)) (bootstrapPair c j)
end

