-- ==== Sys2Proof/Laws/State.lean ====
section
/-! SUPPORT. One lemma per field per named update of State. -/

namespace Sys2Proof.Machine

variable (s : State)

/-! ### withAgenda -/
@[simp] theorem State.withAgenda_ctx (x : List Turn) : (s.withAgenda x).ctx = s.ctx := rfl
@[simp] theorem State.withAgenda_key (x : List Turn) : (s.withAgenda x).key = s.key := rfl
@[simp] theorem State.withAgenda_keylen (x : List Turn) : (s.withAgenda x).keylen = s.keylen := rfl
@[simp] theorem State.withAgenda_dataL (x : List Turn) : (s.withAgenda x).dataL = s.dataL := rfl
@[simp] theorem State.withAgenda_dataR (x : List Turn) : (s.withAgenda x).dataR = s.dataR := rfl
@[simp] theorem State.withAgenda_busy (x : List Turn) : (s.withAgenda x).busy = s.busy := rfl
@[simp] theorem State.withAgenda_keyed (x : List Turn) : (s.withAgenda x).keyed = s.keyed := rfl
@[simp] theorem State.withAgenda_err (x : List Turn) : (s.withAgenda x).err = s.err := rfl
@[simp] theorem State.withAgenda_errcode (x : List Turn) : (s.withAgenda x).errcode = s.errcode := rfl
@[simp] theorem State.withAgenda_pending (x : List Turn) : (s.withAgenda x).pending = s.pending := rfl
@[simp] theorem State.withAgenda_agenda (x : List Turn) : (s.withAgenda x).agenda = x := rfl
@[simp] theorem State.withAgenda_replies (x : List Turn) : (s.withAgenda x).replies = s.replies := rfl
@[simp] theorem State.withAgenda_free (x : List Turn) : (s.withAgenda x).free = s.free := rfl

/-! ### withReply -/
@[simp] theorem State.withReply_ctx (x : Reply) : (s.withReply x).ctx = s.ctx := rfl
@[simp] theorem State.withReply_key (x : Reply) : (s.withReply x).key = s.key := rfl
@[simp] theorem State.withReply_keylen (x : Reply) : (s.withReply x).keylen = s.keylen := rfl
@[simp] theorem State.withReply_dataL (x : Reply) : (s.withReply x).dataL = s.dataL := rfl
@[simp] theorem State.withReply_dataR (x : Reply) : (s.withReply x).dataR = s.dataR := rfl
@[simp] theorem State.withReply_busy (x : Reply) : (s.withReply x).busy = s.busy := rfl
@[simp] theorem State.withReply_keyed (x : Reply) : (s.withReply x).keyed = s.keyed := rfl
@[simp] theorem State.withReply_err (x : Reply) : (s.withReply x).err = s.err := rfl
@[simp] theorem State.withReply_errcode (x : Reply) : (s.withReply x).errcode = s.errcode := rfl
@[simp] theorem State.withReply_pending (x : Reply) : (s.withReply x).pending = s.pending := rfl
@[simp] theorem State.withReply_agenda (x : Reply) : (s.withReply x).agenda = s.agenda := rfl
@[simp] theorem State.withReply_replies (x : Reply) : (s.withReply x).replies = s.replies ++ [x] := rfl
@[simp] theorem State.withReply_free (x : Reply) : (s.withReply x).free = s.free := rfl

/-! ### withDrawn -/
@[simp] theorem State.withDrawn_ctx : (s.withDrawn).ctx = s.ctx := rfl
@[simp] theorem State.withDrawn_key : (s.withDrawn).key = s.key := rfl
@[simp] theorem State.withDrawn_keylen : (s.withDrawn).keylen = s.keylen := rfl
@[simp] theorem State.withDrawn_dataL : (s.withDrawn).dataL = s.dataL := rfl
@[simp] theorem State.withDrawn_dataR : (s.withDrawn).dataR = s.dataR := rfl
@[simp] theorem State.withDrawn_busy : (s.withDrawn).busy = s.busy := rfl
@[simp] theorem State.withDrawn_keyed : (s.withDrawn).keyed = s.keyed := rfl
@[simp] theorem State.withDrawn_err : (s.withDrawn).err = s.err := rfl
@[simp] theorem State.withDrawn_errcode : (s.withDrawn).errcode = s.errcode := rfl
@[simp] theorem State.withDrawn_pending : (s.withDrawn).pending = s.pending := rfl
@[simp] theorem State.withDrawn_agenda : (s.withDrawn).agenda = s.agenda := rfl
@[simp] theorem State.withDrawn_replies : (s.withDrawn).replies = s.replies := rfl
@[simp] theorem State.withDrawn_free : (s.withDrawn).free = s.free + 1 := rfl

/-! ### withError -/
@[simp] theorem State.withError_ctx (x : BitVec 4) : (s.withError x).ctx = s.ctx := rfl
@[simp] theorem State.withError_key (x : BitVec 4) : (s.withError x).key = s.key := rfl
@[simp] theorem State.withError_keylen (x : BitVec 4) : (s.withError x).keylen = s.keylen := rfl
@[simp] theorem State.withError_dataL (x : BitVec 4) : (s.withError x).dataL = s.dataL := rfl
@[simp] theorem State.withError_dataR (x : BitVec 4) : (s.withError x).dataR = s.dataR := rfl
@[simp] theorem State.withError_busy (x : BitVec 4) : (s.withError x).busy = s.busy := rfl
@[simp] theorem State.withError_keyed (x : BitVec 4) : (s.withError x).keyed = s.keyed := rfl
@[simp] theorem State.withError_err (x : BitVec 4) : (s.withError x).err = true := rfl
@[simp] theorem State.withError_errcode (x : BitVec 4) : (s.withError x).errcode = x := rfl
@[simp] theorem State.withError_pending (x : BitVec 4) : (s.withError x).pending = s.pending := rfl
@[simp] theorem State.withError_agenda (x : BitVec 4) : (s.withError x).agenda = s.agenda := rfl
@[simp] theorem State.withError_replies (x : BitVec 4) : (s.withError x).replies = s.replies := rfl
@[simp] theorem State.withError_free (x : BitVec 4) : (s.withError x).free = s.free := rfl

/-! ### withKey -/
@[simp] theorem State.withKey_ctx (x : Memory) : (s.withKey x).ctx = s.ctx := rfl
@[simp] theorem State.withKey_key (x : Memory) : (s.withKey x).key = x := rfl
@[simp] theorem State.withKey_keylen (x : Memory) : (s.withKey x).keylen = s.keylen := rfl
@[simp] theorem State.withKey_dataL (x : Memory) : (s.withKey x).dataL = s.dataL := rfl
@[simp] theorem State.withKey_dataR (x : Memory) : (s.withKey x).dataR = s.dataR := rfl
@[simp] theorem State.withKey_busy (x : Memory) : (s.withKey x).busy = s.busy := rfl
@[simp] theorem State.withKey_keyed (x : Memory) : (s.withKey x).keyed = s.keyed := rfl
@[simp] theorem State.withKey_err (x : Memory) : (s.withKey x).err = s.err := rfl
@[simp] theorem State.withKey_errcode (x : Memory) : (s.withKey x).errcode = s.errcode := rfl
@[simp] theorem State.withKey_pending (x : Memory) : (s.withKey x).pending = s.pending := rfl
@[simp] theorem State.withKey_agenda (x : Memory) : (s.withKey x).agenda = s.agenda := rfl
@[simp] theorem State.withKey_replies (x : Memory) : (s.withKey x).replies = s.replies := rfl
@[simp] theorem State.withKey_free (x : Memory) : (s.withKey x).free = s.free := rfl

/-! ### withKeylen -/
@[simp] theorem State.withKeylen_ctx (x : BitVec 10) : (s.withKeylen x).ctx = s.ctx := rfl
@[simp] theorem State.withKeylen_key (x : BitVec 10) : (s.withKeylen x).key = s.key := rfl
@[simp] theorem State.withKeylen_keylen (x : BitVec 10) : (s.withKeylen x).keylen = x := rfl
@[simp] theorem State.withKeylen_dataL (x : BitVec 10) : (s.withKeylen x).dataL = s.dataL := rfl
@[simp] theorem State.withKeylen_dataR (x : BitVec 10) : (s.withKeylen x).dataR = s.dataR := rfl
@[simp] theorem State.withKeylen_busy (x : BitVec 10) : (s.withKeylen x).busy = s.busy := rfl
@[simp] theorem State.withKeylen_keyed (x : BitVec 10) : (s.withKeylen x).keyed = s.keyed := rfl
@[simp] theorem State.withKeylen_err (x : BitVec 10) : (s.withKeylen x).err = s.err := rfl
@[simp] theorem State.withKeylen_errcode (x : BitVec 10) : (s.withKeylen x).errcode = s.errcode := rfl
@[simp] theorem State.withKeylen_pending (x : BitVec 10) : (s.withKeylen x).pending = s.pending := rfl
@[simp] theorem State.withKeylen_agenda (x : BitVec 10) : (s.withKeylen x).agenda = s.agenda := rfl
@[simp] theorem State.withKeylen_replies (x : BitVec 10) : (s.withKeylen x).replies = s.replies := rfl
@[simp] theorem State.withKeylen_free (x : BitVec 10) : (s.withKeylen x).free = s.free := rfl

/-! ### withDataL -/
@[simp] theorem State.withDataL_ctx (x : Word) : (s.withDataL x).ctx = s.ctx := rfl
@[simp] theorem State.withDataL_key (x : Word) : (s.withDataL x).key = s.key := rfl
@[simp] theorem State.withDataL_keylen (x : Word) : (s.withDataL x).keylen = s.keylen := rfl
@[simp] theorem State.withDataL_dataL (x : Word) : (s.withDataL x).dataL = x := rfl
@[simp] theorem State.withDataL_dataR (x : Word) : (s.withDataL x).dataR = s.dataR := rfl
@[simp] theorem State.withDataL_busy (x : Word) : (s.withDataL x).busy = s.busy := rfl
@[simp] theorem State.withDataL_keyed (x : Word) : (s.withDataL x).keyed = s.keyed := rfl
@[simp] theorem State.withDataL_err (x : Word) : (s.withDataL x).err = s.err := rfl
@[simp] theorem State.withDataL_errcode (x : Word) : (s.withDataL x).errcode = s.errcode := rfl
@[simp] theorem State.withDataL_pending (x : Word) : (s.withDataL x).pending = s.pending := rfl
@[simp] theorem State.withDataL_agenda (x : Word) : (s.withDataL x).agenda = s.agenda := rfl
@[simp] theorem State.withDataL_replies (x : Word) : (s.withDataL x).replies = s.replies := rfl
@[simp] theorem State.withDataL_free (x : Word) : (s.withDataL x).free = s.free := rfl

/-! ### withDataR -/
@[simp] theorem State.withDataR_ctx (x : Word) : (s.withDataR x).ctx = s.ctx := rfl
@[simp] theorem State.withDataR_key (x : Word) : (s.withDataR x).key = s.key := rfl
@[simp] theorem State.withDataR_keylen (x : Word) : (s.withDataR x).keylen = s.keylen := rfl
@[simp] theorem State.withDataR_dataL (x : Word) : (s.withDataR x).dataL = s.dataL := rfl
@[simp] theorem State.withDataR_dataR (x : Word) : (s.withDataR x).dataR = x := rfl
@[simp] theorem State.withDataR_busy (x : Word) : (s.withDataR x).busy = s.busy := rfl
@[simp] theorem State.withDataR_keyed (x : Word) : (s.withDataR x).keyed = s.keyed := rfl
@[simp] theorem State.withDataR_err (x : Word) : (s.withDataR x).err = s.err := rfl
@[simp] theorem State.withDataR_errcode (x : Word) : (s.withDataR x).errcode = s.errcode := rfl
@[simp] theorem State.withDataR_pending (x : Word) : (s.withDataR x).pending = s.pending := rfl
@[simp] theorem State.withDataR_agenda (x : Word) : (s.withDataR x).agenda = s.agenda := rfl
@[simp] theorem State.withDataR_replies (x : Word) : (s.withDataR x).replies = s.replies := rfl
@[simp] theorem State.withDataR_free (x : Word) : (s.withDataR x).free = s.free := rfl

/-! ### withBlock -/
@[simp] theorem State.withBlock_ctx (x : Block) : (s.withBlock x).ctx = s.ctx := rfl
@[simp] theorem State.withBlock_key (x : Block) : (s.withBlock x).key = s.key := rfl
@[simp] theorem State.withBlock_keylen (x : Block) : (s.withBlock x).keylen = s.keylen := rfl
@[simp] theorem State.withBlock_dataL (x : Block) : (s.withBlock x).dataL = x.L := rfl
@[simp] theorem State.withBlock_dataR (x : Block) : (s.withBlock x).dataR = x.R := rfl
@[simp] theorem State.withBlock_busy (x : Block) : (s.withBlock x).busy = s.busy := rfl
@[simp] theorem State.withBlock_keyed (x : Block) : (s.withBlock x).keyed = s.keyed := rfl
@[simp] theorem State.withBlock_err (x : Block) : (s.withBlock x).err = s.err := rfl
@[simp] theorem State.withBlock_errcode (x : Block) : (s.withBlock x).errcode = s.errcode := rfl
@[simp] theorem State.withBlock_pending (x : Block) : (s.withBlock x).pending = s.pending := rfl
@[simp] theorem State.withBlock_agenda (x : Block) : (s.withBlock x).agenda = s.agenda := rfl
@[simp] theorem State.withBlock_replies (x : Block) : (s.withBlock x).replies = s.replies := rfl
@[simp] theorem State.withBlock_free (x : Block) : (s.withBlock x).free = s.free := rfl

/-! ### withCtx -/
@[simp] theorem State.withCtx_ctx (x : Context) : (s.withCtx x).ctx = x := rfl
@[simp] theorem State.withCtx_key (x : Context) : (s.withCtx x).key = s.key := rfl
@[simp] theorem State.withCtx_keylen (x : Context) : (s.withCtx x).keylen = s.keylen := rfl
@[simp] theorem State.withCtx_dataL (x : Context) : (s.withCtx x).dataL = s.dataL := rfl
@[simp] theorem State.withCtx_dataR (x : Context) : (s.withCtx x).dataR = s.dataR := rfl
@[simp] theorem State.withCtx_busy (x : Context) : (s.withCtx x).busy = s.busy := rfl
@[simp] theorem State.withCtx_keyed (x : Context) : (s.withCtx x).keyed = s.keyed := rfl
@[simp] theorem State.withCtx_err (x : Context) : (s.withCtx x).err = s.err := rfl
@[simp] theorem State.withCtx_errcode (x : Context) : (s.withCtx x).errcode = s.errcode := rfl
@[simp] theorem State.withCtx_pending (x : Context) : (s.withCtx x).pending = s.pending := rfl
@[simp] theorem State.withCtx_agenda (x : Context) : (s.withCtx x).agenda = s.agenda := rfl
@[simp] theorem State.withCtx_replies (x : Context) : (s.withCtx x).replies = s.replies := rfl
@[simp] theorem State.withCtx_free (x : Context) : (s.withCtx x).free = s.free := rfl

/-! ### withKeyed -/
@[simp] theorem State.withKeyed_ctx (x : Bool) : (s.withKeyed x).ctx = s.ctx := rfl
@[simp] theorem State.withKeyed_key (x : Bool) : (s.withKeyed x).key = s.key := rfl
@[simp] theorem State.withKeyed_keylen (x : Bool) : (s.withKeyed x).keylen = s.keylen := rfl
@[simp] theorem State.withKeyed_dataL (x : Bool) : (s.withKeyed x).dataL = s.dataL := rfl
@[simp] theorem State.withKeyed_dataR (x : Bool) : (s.withKeyed x).dataR = s.dataR := rfl
@[simp] theorem State.withKeyed_busy (x : Bool) : (s.withKeyed x).busy = s.busy := rfl
@[simp] theorem State.withKeyed_keyed (x : Bool) : (s.withKeyed x).keyed = x := rfl
@[simp] theorem State.withKeyed_err (x : Bool) : (s.withKeyed x).err = s.err := rfl
@[simp] theorem State.withKeyed_errcode (x : Bool) : (s.withKeyed x).errcode = s.errcode := rfl
@[simp] theorem State.withKeyed_pending (x : Bool) : (s.withKeyed x).pending = s.pending := rfl
@[simp] theorem State.withKeyed_agenda (x : Bool) : (s.withKeyed x).agenda = s.agenda := rfl
@[simp] theorem State.withKeyed_replies (x : Bool) : (s.withKeyed x).replies = s.replies := rfl
@[simp] theorem State.withKeyed_free (x : Bool) : (s.withKeyed x).free = s.free := rfl

/-! ### withPending -/
@[simp] theorem State.withPending_ctx (x : Pending) : (s.withPending x).ctx = s.ctx := rfl
@[simp] theorem State.withPending_key (x : Pending) : (s.withPending x).key = s.key := rfl
@[simp] theorem State.withPending_keylen (x : Pending) : (s.withPending x).keylen = s.keylen := rfl
@[simp] theorem State.withPending_dataL (x : Pending) : (s.withPending x).dataL = s.dataL := rfl
@[simp] theorem State.withPending_dataR (x : Pending) : (s.withPending x).dataR = s.dataR := rfl
@[simp] theorem State.withPending_busy (x : Pending) : (s.withPending x).busy = true := rfl
@[simp] theorem State.withPending_keyed (x : Pending) : (s.withPending x).keyed = s.keyed := rfl
@[simp] theorem State.withPending_err (x : Pending) : (s.withPending x).err = s.err := rfl
@[simp] theorem State.withPending_errcode (x : Pending) : (s.withPending x).errcode = s.errcode := rfl
@[simp] theorem State.withPending_pending (x : Pending) : (s.withPending x).pending = some x := rfl
@[simp] theorem State.withPending_agenda (x : Pending) : (s.withPending x).agenda = s.agenda := rfl
@[simp] theorem State.withPending_replies (x : Pending) : (s.withPending x).replies = s.replies := rfl
@[simp] theorem State.withPending_free (x : Pending) : (s.withPending x).free = s.free := rfl

/-! ### withIdle -/
@[simp] theorem State.withIdle_ctx : (s.withIdle).ctx = s.ctx := rfl
@[simp] theorem State.withIdle_key : (s.withIdle).key = s.key := rfl
@[simp] theorem State.withIdle_keylen : (s.withIdle).keylen = s.keylen := rfl
@[simp] theorem State.withIdle_dataL : (s.withIdle).dataL = s.dataL := rfl
@[simp] theorem State.withIdle_dataR : (s.withIdle).dataR = s.dataR := rfl
@[simp] theorem State.withIdle_busy : (s.withIdle).busy = false := rfl
@[simp] theorem State.withIdle_keyed : (s.withIdle).keyed = s.keyed := rfl
@[simp] theorem State.withIdle_err : (s.withIdle).err = s.err := rfl
@[simp] theorem State.withIdle_errcode : (s.withIdle).errcode = s.errcode := rfl
@[simp] theorem State.withIdle_pending : (s.withIdle).pending = none := rfl
@[simp] theorem State.withIdle_agenda : (s.withIdle).agenda = s.agenda := rfl
@[simp] theorem State.withIdle_replies : (s.withIdle).replies = s.replies := rfl
@[simp] theorem State.withIdle_free : (s.withIdle).free = s.free := rfl

/-! ### afterReset -/
variable (n : Nat) (a : List Turn) (r : List Reply)
@[simp] theorem State.afterReset_ctx : (State.afterReset n a r).ctx = Config.unsetContext n := rfl
@[simp] theorem State.afterReset_key : (State.afterReset n a r).key = [] := rfl
@[simp] theorem State.afterReset_keylen : (State.afterReset n a r).keylen = 0 := rfl
@[simp] theorem State.afterReset_dataL : (State.afterReset n a r).dataL = 0 := rfl
@[simp] theorem State.afterReset_dataR : (State.afterReset n a r).dataR = 0 := rfl
@[simp] theorem State.afterReset_busy : (State.afterReset n a r).busy = false := rfl
@[simp] theorem State.afterReset_keyed : (State.afterReset n a r).keyed = false := rfl
@[simp] theorem State.afterReset_err : (State.afterReset n a r).err = false := rfl
@[simp] theorem State.afterReset_errcode : (State.afterReset n a r).errcode = 0 := rfl
@[simp] theorem State.afterReset_pending : (State.afterReset n a r).pending = none := rfl
@[simp] theorem State.afterReset_agenda : (State.afterReset n a r).agenda = a := rfl
@[simp] theorem State.afterReset_replies : (State.afterReset n a r).replies = r := rfl
@[simp] theorem State.afterReset_free : (State.afterReset n a r).free = n + 1 := rfl

/-- Setting a field to the value it has changes nothing. -/
theorem State.withAgenda_self : s.withAgenda s.agenda = s := rfl

end Sys2Proof.Machine
end

