-- ==== Sys2Proof/Laws/Ops.lean ====
section
/-! SUPPORT. What each shared operation and each meaning can do, said once: the provers cite these
instead of unfolding. -/

namespace Sys2Proof.Machine

variable {s : State}

/-! ### Recording an error (60_exceptions.md R138) -/

theorem raiseError_of_err (e : ErrorCode) (h : s.err = true) : raiseError e s = s := by
  simp [raiseError, h]

theorem raiseError_first (e : ErrorCode) (h : s.err = false) :
    raiseError e s = s.withError (errorBits e) := by
  simp [raiseError, h]

theorem raiseError_cases (e : ErrorCode) (s : State) :
    (s.err = true ∧ raiseError e s = s) ∨
    (s.err = false ∧ raiseError e s = s.withError (errorBits e)) := by
  cases h : s.err with
  | true => exact .inl ⟨rfl, raiseError_of_err e h⟩
  | false => exact .inr ⟨rfl, raiseError_first e h⟩

@[simp] theorem raiseError_err (e : ErrorCode) : (raiseError e s).err = true := by
  obtain ⟨h, hs⟩ | ⟨_, hs⟩ := raiseError_cases e s <;> simp [*]

variable (e : ErrorCode)

@[simp] theorem raiseError_ctx : (raiseError e s).ctx = s.ctx := by unfold raiseError; split <;> rfl
@[simp] theorem raiseError_key : (raiseError e s).key = s.key := by unfold raiseError; split <;> rfl
@[simp] theorem raiseError_keylen : (raiseError e s).keylen = s.keylen := by unfold raiseError; split <;> rfl
@[simp] theorem raiseError_dataL : (raiseError e s).dataL = s.dataL := by unfold raiseError; split <;> rfl
@[simp] theorem raiseError_dataR : (raiseError e s).dataR = s.dataR := by unfold raiseError; split <;> rfl
@[simp] theorem raiseError_busy : (raiseError e s).busy = s.busy := by unfold raiseError; split <;> rfl
@[simp] theorem raiseError_keyed : (raiseError e s).keyed = s.keyed := by unfold raiseError; split <;> rfl
@[simp] theorem raiseError_pending : (raiseError e s).pending = s.pending := by unfold raiseError; split <;> rfl
@[simp] theorem raiseError_agenda : (raiseError e s).agenda = s.agenda := by unfold raiseError; split <;> rfl
@[simp] theorem raiseError_replies : (raiseError e s).replies = s.replies := by unfold raiseError; split <;> rfl
@[simp] theorem raiseError_free : (raiseError e s).free = s.free := by unfold raiseError; split <;> rfl

/-- Recording an error and noting a reply do not disturb each other. -/
theorem raiseError_withReply (r : Reply) : raiseError e (s.withReply r) = (raiseError e s).withReply r := by
  unfold raiseError
  cases h : s.err
  · simp [h]; rfl
  · simp [h]

/-- Recording an error and taking a turn do not disturb each other. -/
theorem raiseError_withAgenda (a : List Turn) :
    raiseError e (s.withAgenda a) = (raiseError e s).withAgenda a := by
  unfold raiseError
  cases h : s.err
  · simp [h]; rfl
  · simp [h]

/-! ### The busy check (60_exceptions.md R140) -/

theorem unlessBusy_busy (f : State → State) (h : s.busy = true) :
    unlessBusy s f = raiseError .busyViolation s := by simp [unlessBusy, h]

theorem unlessBusy_idle (f : State → State) (h : s.busy = false) : unlessBusy s f = f s := by
  simp [unlessBusy, h]

/-! ### Commands at acceptance (60_exceptions.md R141) -/

/-- A command written while BUSY = 1 is refused, whichever it is. -/
theorem exec_busy (i : Instr) (h : s.busy = true) :
    exec i s = .next (raiseError .busyViolation s) := by
  cases i <;> simp [exec, execNop, execInit, execEncrypt, execDecrypt, unlessBusy_busy _ h]

/-- A block command on an idle block: taken when KEYED = 1, else NOT_KEYED. -/
theorem acceptBlock_cases (op : Block → Pending) (s : State) :
    (s.keyed = true ∧ acceptBlock op s = s.withPending (op (blockOperand s))) ∨
    (s.keyed = false ∧ acceptBlock op s = raiseError .notKeyed s) := by
  cases h : s.keyed <;> simp [acceptBlock, h]

/-- All that a command written to CMD can do. -/
theorem exec_cases (i : Instr) (s : State) :
    (∃ e, exec i s = .next (raiseError e s)) ∨
    (i = .nop ∧ s.busy = false ∧ exec i s = .next s) ∨
    (i = .init ∧ s.busy = false ∧ keyLengthOk s.keylen.toNat = true ∧
      exec i s = .next ((s.withPending (initOperands s)).withKeyed false)) ∨
    (i = .encrypt ∧ s.busy = false ∧ s.keyed = true ∧
      exec i s = .next (s.withPending (.encrypt (blockOperand s)))) ∨
    (i = .decrypt ∧ s.busy = false ∧ s.keyed = true ∧
      exec i s = .next (s.withPending (.decrypt (blockOperand s)))) := by
  cases hb : s.busy with
  | true => exact .inl ⟨_, exec_busy i hb⟩
  | false =>
    cases i with
    | nop => exact .inr (.inl ⟨rfl, rfl, by simp [exec, execNop, unlessBusy_idle _ hb]⟩)
    | init =>
      cases hk : keyLengthOk s.keylen.toNat with
      | true =>
        exact .inr (.inr (.inl ⟨rfl, rfl, rfl, by simp [exec, execInit, unlessBusy_idle _ hb, hk]⟩))
      | false =>
        exact .inl ⟨.badKeylen, by simp [exec, execInit, unlessBusy_idle _ hb, hk]⟩
    | encrypt =>
      obtain ⟨hk, h⟩ | ⟨_, h⟩ := acceptBlock_cases .encrypt s
      · exact .inr (.inr (.inr (.inl ⟨rfl, rfl, hk, by simp [exec, execEncrypt, unlessBusy_idle _ hb, h]⟩)))
      · exact .inl ⟨.notKeyed, by simp [exec, execEncrypt, unlessBusy_idle _ hb, h]⟩
    | decrypt =>
      obtain ⟨hk, h⟩ | ⟨_, h⟩ := acceptBlock_cases .decrypt s
      · exact .inr (.inr (.inr (.inr ⟨rfl, rfl, hk, by simp [exec, execDecrypt, unlessBusy_idle _ hb, h]⟩)))
      · exact .inl ⟨.notKeyed, by simp [exec, execDecrypt, unlessBusy_idle _ hb, h]⟩

/-! ### Completion (10_state.md R38) -/

/-- All that a completion can do. -/
theorem complete_cases (p : Params) (s : State) :
    (s.pending = none ∧ complete p s = s.withIdle) ∨
    (∃ k n, s.pending = some (.init k n) ∧
      complete p s = ((s.withCtx (runKeySchedule p k n.toNat s.ctx)).withKeyed true).withIdle) ∨
    (∃ b, s.pending = some (.encrypt b) ∧
      complete p s = (s.withBlock (encryptBlock p.f s.ctx b)).withIdle) ∨
    (∃ b, s.pending = some (.decrypt b) ∧
      complete p s = (s.withBlock (decryptBlock p.f s.ctx b)).withIdle) := by
  cases hp : s.pending with
  | none => exact .inl ⟨rfl, by simp [complete, hp]⟩
  | some q =>
    cases q with
    | init k n => exact .inr (.inl ⟨k, n, rfl, by simp [complete, hp, completeInit]⟩)
    | encrypt b => exact .inr (.inr (.inl ⟨b, rfl, by simp [complete, hp, completeEncrypt]⟩))
    | decrypt b => exact .inr (.inr (.inr ⟨b, rfl, by simp [complete, hp, completeDecrypt]⟩))

/-- A completion never touches the key buffer, KEYLEN, the error record, the agenda, the replies or the
count of free values (40_key_schedule.md R101, 41_block_transform.md R115, R116). -/
theorem complete_frame (p : Params) (s : State) :
    (complete p s).key = s.key ∧ (complete p s).keylen = s.keylen ∧ (complete p s).err = s.err ∧
    (complete p s).errcode = s.errcode ∧ (complete p s).agenda = s.agenda ∧
    (complete p s).replies = s.replies ∧ (complete p s).free = s.free ∧
    (complete p s).busy = false ∧ (complete p s).pending = none := by
  obtain ⟨_, h⟩ | ⟨k, n, _, h⟩ | ⟨b, _, h⟩ | ⟨b, _, h⟩ := complete_cases p s <;> simp [h]

theorem engineTurn_busy (p : Params) (h : s.busy = true) : engineTurn p s = complete p s := by
  simp [engineTurn, h]

theorem engineTurn_idle (p : Params) (h : s.busy = false) : engineTurn p s = s := by
  simp [engineTurn, h]

end Sys2Proof.Machine
end

