-- ==== Sys2Proof/Laws/Bus.lean ====
section
/-! SUPPORT. The register window: what an accepted access can touch, and all that a host access and a
step can do. -/

namespace Sys2Proof.Machine

variable {s : State}

/-! ### The address map (20_memory.md R50) and what is accepted there -/

@[simp] theorem slotAt_cmd : slotAt 0x000#12 = .cmd := rfl
@[simp] theorem slotAt_status : slotAt 0x008#12 = .status := rfl
@[simp] theorem slotAt_keylen : slotAt 0x010#12 = .keylen := rfl
@[simp] theorem slotAt_dataL : slotAt 0x020#12 = .dataL := rfl
@[simp] theorem slotAt_dataR : slotAt 0x028#12 = .dataR := rfl
@[simp] theorem accepted_cmd : accepted 0x000#12 .b8 = true := rfl
@[simp] theorem accepted_status : accepted 0x008#12 .b8 = true := rfl
@[simp] theorem accepted_keylen : accepted 0x010#12 .b8 = true := rfl
@[simp] theorem accepted_dataL : accepted 0x020#12 .b8 = true := rfl
@[simp] theorem accepted_dataR : accepted 0x028#12 .b8 = true := rfl

theorem eq_of_slotAt_cmd {off : BitVec 12} (h : slotAt off = .cmd) : off = 0x000#12 := by
  unfold slotAt at h
  repeat' split at h
  all_goals first | assumption | cases h

theorem eq_of_slotAt_status {off : BitVec 12} (h : slotAt off = .status) : off = 0x008#12 := by
  unfold slotAt at h
  repeat' split at h
  all_goals first | assumption | cases h

theorem eq_of_slotAt_keylen {off : BitVec 12} (h : slotAt off = .keylen) : off = 0x010#12 := by
  unfold slotAt at h
  repeat' split at h
  all_goals first | assumption | cases h

theorem eq_of_slotAt_dataL {off : BitVec 12} (h : slotAt off = .dataL) : off = 0x020#12 := by
  unfold slotAt at h
  repeat' split at h
  all_goals first | assumption | cases h

theorem eq_of_slotAt_dataR {off : BitVec 12} (h : slotAt off = .dataR) : off = 0x028#12 := by
  unfold slotAt at h
  repeat' split at h
  all_goals first | assumption | cases h

theorem bounds_of_slotAt_key {off : BitVec 12} (h : slotAt off = .key) :
    0x200 ≤ off.toNat ∧ off.toNat < 0x410 := by
  unfold slotAt at h
  repeat' split at h
  all_goals first | assumption | cases h

/-- The KEY window of the address map. -/
theorem slotAt_key {off : BitVec 12} (h1 : 0x200 ≤ off.toNat) (h2 : off.toNat < 0x410) :
    slotAt off = .key := by
  have low : ∀ n : Nat, n < 0x200 → off ≠ BitVec.ofNat 12 n := by
    intro n hn he
    subst he
    simp at h1
    omega
  unfold slotAt
  rw [if_neg (low 0x000 (by omega)), if_neg (low 0x008 (by omega)), if_neg (low 0x010 (by omega)),
    if_neg (low 0x020 (by omega)), if_neg (low 0x028 (by omega)), if_pos ⟨h1, h2⟩]

/-- Aligned 8-byte accesses to the KEY window are accepted (20_memory.md R47). -/
theorem accepted_key8 {off : BitVec 12} (h1 : 0x200 ≤ off.toNat) (h2 : off.toNat ≤ 0x408)
    (h3 : off.toNat % 8 = 0) : accepted off .b8 = true := by
  simp [accepted, h1, h2, h3]

/-- 1-byte accesses to the KEY window are accepted (20_memory.md R47). -/
theorem accepted_key1 {off : BitVec 12} (h1 : 0x200 ≤ off.toNat) (h2 : off.toNat ≤ 0x40F) :
    accepted off .b1 = true := by
  simp [accepted, h1, h2]

/-- An accepted access to the KEY window lies inside it (20_memory.md R47). -/
theorem accepted_key_bounds {off : BitVec 12} {size : AccessSize} (ha : accepted off size = true)
    (hk : slotAt off = .key) : keyBase ≤ off.toNat ∧ off.toNat + byteCount size ≤ keyEnd := by
  have hw : keyBase ≤ off.toNat ∧ off.toNat < keyEnd := bounds_of_slotAt_key hk
  refine ⟨hw.1, ?_⟩
  cases size with
  | b1 => have := hw.2; simp only [byteCount]; omega
  | b2 => simp [accepted] at ha
  | b4 => simp [accepted] at ha
  | b8 =>
    have h1 := hw.1
    have h2 := hw.2
    simp only [keyBase, keyEnd, byteCount, accepted, Bool.and_eq_true, decide_eq_true_eq] at *
    omega

/-! ### Host accesses and steps -/

/-- All that a read can do: an accepted one draws at most a free value, a rejected one records
BUS_ERROR and returns 0 (20_memory.md R55). -/
theorem hostRead_cases (off : BitVec 12) (size : AccessSize) (s : State) :
    (accepted off size = true ∧ readDraws off s = false ∧
      hostRead off size s = (s, .data (readValue off s) false)) ∨
    (accepted off size = true ∧ readDraws off s = true ∧
      hostRead off size s = (s.withDrawn, .data (readValue off s) false)) ∨
    (accepted off size = false ∧
      hostRead off size s = (raiseError .busError s, .data 0 Config.busErrResp)) := by
  cases ha : accepted off size with
  | false => exact .inr (.inr ⟨rfl, by simp [hostRead, ha]⟩)
  | true =>
    cases hd : readDraws off s with
    | false => exact .inl ⟨rfl, rfl, by simp [hostRead, ha, hd]⟩
    | true => exact .inr (.inl ⟨rfl, rfl, by simp [hostRead, ha, hd]⟩)

/-- All that a write can do (20_memory.md R56): one error and nothing else, nothing at all, one register
or the key buffer written, or one command accepted. -/
theorem hostWrite_cases (off : BitVec 12) (size : AccessSize) (v : Word) (s : State) :
    (∃ e, hostWrite off size v s = .next (raiseError e s)) ∨
    (accepted off size = true ∧ s.busy = false ∧
      (hostWrite off size v s = .next s ∨
       (slotAt off = .keylen ∧ hostWrite off size v s = .next (s.withKeylen (v.setWidth 10))) ∨
       (slotAt off = .dataL ∧ hostWrite off size v s = .next (s.withDataL v)) ∨
       (slotAt off = .dataR ∧ hostWrite off size v s = .next (s.withDataR v)) ∨
       (slotAt off = .key ∧
         hostWrite off size v s = .next (s.withKey (s.key.writeLanes off.toNat v (byteCount size)))) ∨
       (slotAt off = .cmd ∧ ∃ i, decode v = .ok i ∧ hostWrite off size v s = exec i s))) := by
  cases ha : accepted off size with
  | false => exact .inl ⟨_, by simp [hostWrite, ha]; rfl⟩
  | true =>
    cases hb : s.busy with
    | true => exact .inl ⟨_, by simp [hostWrite, ha, hb]; rfl⟩
    | false =>
      have hw : hostWrite off size v s = writeEffect off size v s := by simp [hostWrite, ha, hb]
      rw [hw]
      cases hs : slotAt off with
      | cmd =>
        cases hd : decode v with
        | error x => exact .inl ⟨.illegalCmd, by simp [writeEffect, hs, command, hd, unlessBusy_idle _ hb]⟩
        | ok i =>
          refine .inr ⟨rfl, rfl, .inr (.inr (.inr (.inr (.inr ⟨rfl, i, rfl, ?_⟩))))⟩
          simp [writeEffect, hs, command, hd]
      | status => exact .inr ⟨rfl, rfl, .inl (by simp [writeEffect, hs])⟩
      | keylen => exact .inr ⟨rfl, rfl, .inr (.inl ⟨rfl, by simp [writeEffect, hs]⟩)⟩
      | dataL => exact .inr ⟨rfl, rfl, .inr (.inr (.inl ⟨rfl, by simp [writeEffect, hs]⟩))⟩
      | dataR => exact .inr ⟨rfl, rfl, .inr (.inr (.inr (.inl ⟨rfl, by simp [writeEffect, hs]⟩)))⟩
      | key =>
        exact .inr ⟨rfl, rfl, .inr (.inr (.inr (.inr (.inl ⟨rfl, by simp [writeEffect, hs]⟩))))⟩
      | reserved => exact .inr ⟨rfl, rfl, .inl (by simp [writeEffect, hs])⟩

/-- Which turn a step takes (20_memory.md R58). -/
theorem step_cases (s : State) :
    (s.agenda = [] ∧ step s = .next (engineTurn Config.params s)) ∨
    (∃ a rest, s.agenda = .host a :: rest ∧ step s = hostTurn a (s.withAgenda rest)) ∨
    (∃ rest, s.agenda = .engine :: rest ∧
      step s = .next (engineTurn Config.params (s.withAgenda rest))) ∨
    (∃ rest, s.agenda = .reset :: rest ∧ step s = .next (applyReset (s.withAgenda rest))) := by
  cases h : s.agenda with
  | nil => exact .inl ⟨rfl, by simp [step, h]⟩
  | cons x rest =>
    cases x with
    | host a => exact .inr (.inl ⟨a, rest, rfl, by simp [step, h]⟩)
    | engine => exact .inr (.inr (.inl ⟨rest, rfl, by simp [step, h]⟩))
    | reset => exact .inr (.inr (.inr ⟨rest, rfl, by simp [step, h]⟩))

end Sys2Proof.Machine
end

