-- ==== Sys2Proof/Laws/Cipher.lean ====
section
/-! SUPPORT. Small lemmas of the block functions and of the context's entries. -/

namespace Sys2Proof.Machine

@[simp] theorem swapHalves_L (b : Block) : (swapHalves b).L = b.R := rfl
@[simp] theorem swapHalves_R (b : Block) : (swapHalves b).R = b.L := rfl
@[simp] theorem swapHalves_swapHalves (b : Block) : swapHalves (swapHalves b) = b := rfl
@[simp] theorem feistelRound_L (f : Word → Word) (k : Word) (b : Block) :
    (feistelRound f k b).L = b.R ^^^ f (b.L ^^^ k) := rfl
@[simp] theorem feistelRound_R (f : Word → Word) (k : Word) (b : Block) :
    (feistelRound f k b).R = b.L ^^^ k := rfl
@[simp] theorem whiten_L (kl kr : Word) (b : Block) : (whiten kl kr b).L = b.L ^^^ kl := rfl
@[simp] theorem whiten_R (kl kr : Word) (b : Block) : (whiten kl kr b).R = b.R ^^^ kr := rfl

/-- An array's entry at an index in range. -/
theorem getD_of_lt {α : Type} {n : Nat} (xs : Vector α n) {i : Nat} (d : α) (h : i < n) :
    xs.getD i d = xs[i] := by
  simp [Vector.getD, h]

/-- A subkey at an index in range. -/
theorem subkey_of_lt (P : Subkeys) {i : Nat} (h : i < 66) : subkey P i = P[i] := getD_of_lt _ _ h

/-- A table entry at indexes in range. -/
theorem entryAt_of_lt (S : Tables) {t e : Nat} (ht : t < 8) (he : e < 256) : entryAt S t e = (S[t])[e] := by
  rw [entryAt, getD_of_lt _ _ ht, getD_of_lt _ _ he]

/-- What a subkey write changes. -/
theorem subkey_setSubkey (c : Context) (i j : Nat) (v : Word) (hj : j < 66) :
    subkey (setSubkey c i v).P j = if i = j then v else subkey c.P j := by
  rw [subkey, subkey, getD_of_lt _ _ hj, getD_of_lt _ _ hj]
  exact Vector.getElem_setIfInBounds hj

@[simp] theorem setSubkey_S (c : Context) (i : Nat) (v : Word) : (setSubkey c i v).S = c.S := rfl
@[simp] theorem setEntry_P (c : Context) (t e : Nat) (v : Word) : (setEntry c t e v).P = c.P := rfl

/-- What an entry write changes. -/
theorem entryAt_setEntry (c : Context) (t e u d : Nat) (v : Word) (hu : u < 8) (hd : d < 256) :
    entryAt (setEntry c t e v).S u d = if t = u ∧ e = d then v else entryAt c.S u d := by
  by_cases ht : t = u
  · subst ht
    by_cases he : e = d
    · simp [entryAt, setEntry, Vector.getD, hu, hd, he]
    · simp [entryAt, setEntry, Vector.getD, hu, hd, he]
  · simp [entryAt, setEntry, Vector.getD, hu, ht]

/-- Two subkey files with the same 66 entries are the same. -/
theorem subkeys_ext {P Q : Subkeys} (h : ∀ i, i < 66 → subkey P i = subkey Q i) : P = Q := by
  refine Vector.ext fun i hi => ?_
  simpa [subkey, Vector.getD, hi] using h i hi

/-- Two table files with the same 2048 entries are the same. -/
theorem tables_ext {S T : Tables} (h : ∀ t e, t < 8 → e < 256 → entryAt S t e = entryAt T t e) : S = T := by
  refine Vector.ext fun t ht => Vector.ext fun e he => ?_
  simpa [entryAt, Vector.getD, ht, he] using h t e ht he

/-! ### Loops -/

/-- A loop over `m + n` numbers is one over the first `m` and then one over the other `n`. -/
theorem foldl_range_add {α : Type} (m n : Nat) (f : α → Nat → α) (x : α) :
    (List.range (m + n)).foldl f x =
      (List.range n).foldl (fun x k => f x (m + k)) ((List.range m).foldl f x) := by
  rw [List.range_add, List.foldl_append, List.foldl_map]

/-- Loops whose bodies agree in the range agree. -/
theorem foldl_range_congr {α : Type} (n : Nat) {f g : α → Nat → α} (x : α)
    (h : ∀ y k, k < n → f y k = g y k) : (List.range n).foldl f x = (List.range n).foldl g x :=
  List.foldl_ext _ _ _ fun y k hk => h y k (List.mem_range.mp hk)

/-- Two nested loops are one loop over the numbers `t * n + h` (40_key_schedule.md R92: 8 x 128 invocations). -/
theorem foldl_range_mul {α : Type} (m n : Nat) (f : α → Nat → Nat → α) (x : α) :
    (List.range m).foldl (fun x t => (List.range n).foldl (fun x h => f x t h) x) x =
      (List.range (m * n)).foldl (fun x k => f x (k / n) (k % n)) x := by
  induction m with
  | zero => simp
  | succ m ih =>
    rw [List.range_succ, List.foldl_append, ih, Nat.succ_mul, foldl_range_add]
    simp only [List.foldl_cons, List.foldl_nil]
    refine foldl_range_congr _ _ fun y h hh => ?_
    rw [Nat.mul_comm m n, Nat.mul_add_div (by omega), Nat.mul_add_mod, Nat.div_eq_of_lt hh, Nat.mod_eq_of_lt hh,
      Nat.add_zero]

end Sys2Proof.Machine
end

