-- ==== Sys2Proof/Laws/Memory.lean ====
section
/-! SUPPORT. The key buffer as memory: what a write changes, and that every write keeps the canonical form. -/

namespace Sys2Proof.Machine

@[simp] theorem Memory.read_nil (a : Nat) : Memory.read [] a = 0#8 := rfl

/-- Below the first listed offset every byte reads 0. -/
theorem Memory.read_below {m : Memory} {lo a : Nat} (h : Memory.wfFrom m lo = true) (ha : a < lo) :
    m.read a = 0#8 := by
  induction m generalizing lo with
  | nil => rfl
  | cons c rest ih =>
    obtain ⟨x, b⟩ := c
    simp only [Memory.wfFrom, Bool.and_eq_true, decide_eq_true_eq] at h
    have hx : x ≠ a := by omega
    simp only [Memory.read, hx, if_false]
    exact ih h.2 (by omega)

/-- The canonical form from a higher offset is one from a lower offset. -/
theorem Memory.wfFrom_mono {m : Memory} {lo hi : Nat} (h : Memory.wfFrom m hi = true) (hle : lo ≤ hi) :
    Memory.wfFrom m lo = true := by
  cases m with
  | nil => rfl
  | cons c rest =>
    simp only [Memory.wfFrom, Bool.and_eq_true, decide_eq_true_eq] at h ⊢
    exact ⟨⟨⟨by omega, h.1.1.2⟩, h.1.2⟩, h.2⟩

/-- A write changes the one byte it writes. -/
theorem Memory.read_write {m : Memory} {lo : Nat} (h : Memory.wfFrom m lo = true) (a c : Nat) (v : Byte) :
    (m.write a v).read c = if a = c then v else m.read c := by
  induction m generalizing lo with
  | nil =>
    by_cases hv : v = 0#8
    · simp [Memory.write, hv]
    · simp [Memory.write, hv, Memory.read]
  | cons p rest ih =>
    obtain ⟨x, b⟩ := p
    simp only [Memory.wfFrom, Bool.and_eq_true, decide_eq_true_eq] at h
    have below : ∀ d, d ≤ x → Memory.read rest d = 0#8 := fun d hd => Memory.read_below h.2 (by omega)
    by_cases hlt : a < x
    · by_cases hv : v = 0#8
      · by_cases hac : a = c
        · subst hac
          have hx : x ≠ a := by omega
          simp [Memory.write, hlt, hv, Memory.read, hx, below a (by omega)]
        · simp [Memory.write, hlt, hv, hac]
      · simp [Memory.write, hlt, hv, Memory.read]
    · by_cases hxa : x = a
      · subst hxa
        by_cases hv : v = 0#8
        · by_cases hac : x = c
          · simp [Memory.write, hv, hac, below c (by omega)]
          · simp [Memory.write, hv, hac, Memory.read]
        · by_cases hac : x = c
          · simp [Memory.write, hv, hac, Memory.read]
          · simp [Memory.write, hv, hac, Memory.read]
      · by_cases hxc : x = c
        · have hac : a ≠ c := by omega
          subst hxc
          simp [Memory.write, hlt, hxa, Memory.read, hac]
        · simp [Memory.write, hlt, hxa, Memory.read, hxc, ih h.2]

/-- A write inside the KEY window keeps the canonical form. -/
theorem Memory.wfFrom_write {m : Memory} {lo a : Nat} {v : Byte} (h : Memory.wfFrom m lo = true)
    (hlo : lo ≤ a) (hhi : a < keyEnd) : Memory.wfFrom (m.write a v) lo = true := by
  induction m generalizing lo with
  | nil =>
    by_cases hv : v = 0#8
    · simp [Memory.write, hv, Memory.wfFrom]
    · simp [Memory.write, hv, Memory.wfFrom, hlo, hhi]
  | cons p rest ih =>
    obtain ⟨x, b⟩ := p
    have h' := h
    simp only [Memory.wfFrom, Bool.and_eq_true, decide_eq_true_eq] at h
    by_cases hlt : a < x
    · by_cases hv : v = 0#8
      · simpa [Memory.write, hlt, hv] using h'
      · have hx : a + 1 ≤ x := by omega
        have hxe := h.1.1.2
        have hb : b ≠ 0#8 := by simpa using h.1.2
        simp [Memory.write, hlt, hv, Memory.wfFrom, hlo, hhi, hx, hxe, hb, h.2]
    · by_cases hxa : x = a
      · subst hxa
        by_cases hv : v = 0#8
        · simpa [Memory.write, hv] using Memory.wfFrom_mono h.2 (by omega)
        · simp [Memory.write, hv, Memory.wfFrom, hlo, hhi, h.2]
      · have hxe := h.1.1.2
        have hlx := h.1.1.1
        have hb : b ≠ 0#8 := by simpa using h.1.2
        simp [Memory.write, hlt, hxa, Memory.wfFrom, hlx, hxe, hb, ih h.2 (by omega)]

/-- Writing lanes inside the KEY window keeps the canonical form. -/
theorem Memory.wf_writeLanes {m : Memory} {a n : Nat} {v : Word} (h : m.wf = true)
    (hlo : keyBase ≤ a) (hhi : a + n ≤ keyEnd) : (m.writeLanes a v n).wf = true := by
  induction n with
  | zero => simpa [Memory.writeLanes] using h
  | succ n ih =>
    have := ih (by omega)
    simp only [Memory.writeLanes, Memory.wf, List.range_succ, List.foldl_append, List.foldl_cons,
      List.foldl_nil] at this ⊢
    exact Memory.wfFrom_write this (by omega) (by omega)

/-- Writing lanes changes exactly the bytes under them, each to its lane (20_memory.md R46, R52). -/
theorem Memory.read_writeLanes {m : Memory} {a n : Nat} {v : Word} (h : m.wf = true)
    (hlo : keyBase ≤ a) (hhi : a + n ≤ keyEnd) (c : Nat) :
    (m.writeLanes a v n).read c = if a ≤ c ∧ c < a + n then lane v (c - a) else m.read c := by
  induction n with
  | zero =>
    have : ¬(a ≤ c ∧ c < a + 0) := by omega
    simp only [this, if_false]
    rfl
  | succ n ih =>
    have hwf : (m.writeLanes a v n).wf = true := Memory.wf_writeLanes h hlo (by omega)
    have step : m.writeLanes a v (n + 1) = (m.writeLanes a v n).write (a + n) (lane v n) := by
      simp [Memory.writeLanes, List.range_succ]
    rw [step, Memory.read_write hwf, ih (by omega)]
    by_cases hc : a + n = c
    · subst hc
      simp
    · have : (a ≤ c ∧ c < a + (n + 1)) ↔ (a ≤ c ∧ c < a + n) := by omega
      simp [hc, this]

end Sys2Proof.Machine
end

