-- ==== Sys2Proof/Laws/PerInstr.lean ====
section
/-! SUPPORT. Facts about the commands as syntax, one lemma per constructor. -/

namespace Sys2Proof.Laws

/-- The command word of `i` has RSVD = 0 and OP at the value 30_encoding.md R72 gives, and both checks of
a well-formed word pass. -/
def EncodingFields.Statement (i : Instr) : Prop :=
  rsvdField (encode i) = 0 ∧ opField (encode i) = opcode i ∧ wellFormedWord (encode i) = true

theorem EncodingFields.nop : EncodingFields.Statement .nop := ⟨by decide, by decide, by decide⟩
theorem EncodingFields.init : EncodingFields.Statement .init := ⟨by decide, by decide, by decide⟩
theorem EncodingFields.encrypt : EncodingFields.Statement .encrypt := ⟨by decide, by decide, by decide⟩
theorem EncodingFields.decrypt : EncodingFields.Statement .decrypt := ⟨by decide, by decide, by decide⟩

end Sys2Proof.Laws
end

