-- ==== Sys2Proof/Tests/Slice0.lean ====
section
/-! SUPPORT. The model's own tests. Expected values are those of spec/ (95_test_vectors.md unless said
otherwise); witnesses show that the hypotheses of the obligations can be met. -/

namespace Sys2Proof.Tests

open Sys2Proof Sys2Proof.Machine Sys2Proof.Safety

/-! ### Small states -/

/-- After reset, with a KEYLEN and turns to come. -/
def idle (len : Nat) (ts : List Turn) : State :=
  { State.reset with keylen := BitVec.ofNat 10 len, agenda := ts }
/-- The same, keyed, with the block (1, 2). -/
def keyedIdle (len : Nat) (ts : List Turn) : State :=
  { idle len ts with keyed := true, dataL := 1, dataR := 2 }
/-- An ENCRYPT of the block (1, 2) in flight. -/
def inFlight (ts : List Turn) : State :=
  { keyedIdle 7 ts with busy := true, pending := some (.encrypt ⟨1, 2⟩) }
/-- An INIT with the key 41 in flight. -/
def initInFlight (ts : List Turn) : State :=
  { idle 1 ts with key := [(0x200, 0x41)], busy := true, pending := some (.init [0x41] 1) }
/-- A host write of 8 bytes. -/
def wr (off : BitVec 12) (v : Word) : Turn := .host (.write off .b8 v)

/-- Whether a step answers a next state that passes a check. -/
def nextIs (r : Result) (check : State → Bool) : Bool :=
  match r with
  | .next t => check t
  | .fault _ => false
  | .refused _ => false

/-! ### Well-formedness: an ill-formed word for each check -/

theorem test_rsvd_nonzero_is_ill_formed : rsvdIsZero 0x0000000000000010 = false := by decide
theorem test_reserved_op_is_ill_formed : opIsAssigned 0x0000000000000004 = false := by decide
theorem test_ill_formed_words : wellFormedWord 0x0000000000000010 = false ∧
    wellFormedWord 0x000000000000000F = false ∧ wellFormedWord 0x8000000000000002 = false := by decide
theorem test_key_length_bounds : keyLengthOk 0 = false ∧ keyLengthOk 1 = true ∧
    keyLengthOk 528 = true ∧ keyLengthOk 529 = false := by decide

/-! ### Decoding: words written out from 30_encoding.md R71 and R72 (RSVD, 60 bits, then OP, 4 bits) -/

theorem test_decode_nop : decode (0b000000000000000000000000000000000000000000000000000000000000#60 ++ 0b0000#4) = .ok .nop := by decide
theorem test_decode_init : decode (0b000000000000000000000000000000000000000000000000000000000000#60 ++ 0b0001#4) = .ok .init := by decide
theorem test_decode_encrypt : decode (0b000000000000000000000000000000000000000000000000000000000000#60 ++ 0b0010#4) = .ok .encrypt := by decide
theorem test_decode_decrypt : decode (0b000000000000000000000000000000000000000000000000000000000000#60 ++ 0b0011#4) = .ok .decrypt := by decide
theorem test_decode_illegal : decode 0x0000000000000004 = .error .illegal ∧
    decode 0x0000000000000010 = .error .illegal := by decide
theorem test_decode_bytes : decodeBytes [0x01, 0, 0, 0, 0, 0, 0, 0, 0xAA] = .ok (.init, [0xAA]) ∧
    decodeBytes [0, 0, 0, 0, 0, 0, 0, 0x01] = .error .illegal ∧ decodeBytes [0x01] = .error .truncated := by decide
theorem test_table_words : decodeTableWord 64 0 = some .nop ∧ decodeTableWord 64 1 = some .init ∧
    decodeTableWord 64 2 = some .encrypt ∧ decodeTableWord 64 3 = some .decrypt ∧
    decodeTableWord 64 4 = none := by decide
theorem test_encode_words : encode .nop = 0x0000000000000000 ∧ encode .init = 0x0000000000000001 ∧
    encode .encrypt = 0x0000000000000002 ∧ encode .decrypt = 0x0000000000000003 := by decide

/-! ### Commands (section 2.5) -/

theorem test_nop_after_reset : nextIs (step (State.reset.withFetchWord 64 0)) (fun t =>
    statusWord t == 0x0 && t.pending == none) = true := by decide
theorem test_nop_while_busy : nextIs (exec .nop (inFlight [])) (fun t => statusWord t == 0x47) = true := by decide
theorem test_init_accepted : nextIs (exec .init { keyedIdle 2 [] with key := [(0x200, 0x54), (0x201, 0x45), (0x202, 0x53)] })
    (fun t => t.pending == some (.init [0x54, 0x45] 2) && statusWord t == 0x1) = true := by decide
theorem test_init_529_refused : nextIs (exec .init (idle 529 [])) (fun t =>
    statusWord t == 0x24 && t.pending == none) = true := by decide
theorem test_encrypt_unkeyed : nextIs (step (State.reset.withFetchWord 64 2)) (fun t =>
    statusWord t == 0x34 && t.pending == none) = true := by decide
theorem test_encrypt_accepted : nextIs (exec .encrypt (keyedIdle 7 [])) (fun t =>
    t.pending == some (.encrypt ⟨1, 2⟩) && statusWord t == 0x3) = true := by decide
theorem test_decrypt_accepted : nextIs (exec .decrypt (keyedIdle 7 [])) (fun t =>
    t.pending == some (.decrypt ⟨1, 2⟩) && statusWord t == 0x3) = true := by decide
theorem test_decrypt_while_busy : nextIs (exec .decrypt (inFlight [])) (fun t =>
    t.pending == some (.encrypt ⟨1, 2⟩) && statusWord t == 0x47) = true := by decide
theorem test_illegal_word : nextIs (step (idle 0 [wr 0x000 0x8000000000000002])) (fun t =>
    statusWord t == 0x14) = true := by decide

/-! ### The bus and the KEY window (section 2.6) -/

theorem test_key_word_write_is_little_endian : nextIs (step (idle 0 [wr 0x200 0x0807060504030201])) (fun t =>
    keyBytes t 9 == [1, 2, 3, 4, 5, 6, 7, 8, 0]) = true := by decide
theorem test_keylen_keeps_ten_bits : nextIs (step (idle 0 [wr 0x010 0xFFFFFFFFFFFFFC07])) (fun t =>
    t.keylen == 7) = true := by decide
theorem test_last_key_byte : nextIs (step (idle 0 [.host (.write 0x40F .b1 0xFFAB)])) (fun t =>
    keyByte t 527 == 0xAB && keyByte t 526 == 0 && !t.err) = true := by decide
theorem test_past_the_key_window : nextIs (step (idle 0 [wr 0x410 1])) (fun t =>
    statusWord t == 0x54 && t.key == []) = true := by decide
theorem test_misaligned_write : nextIs (step (idle 0 [wr 0x004 1])) (fun t => statusWord t == 0x54) = true := by decide
theorem test_byte_read_of_status : nextIs (step (idle 0 [.host (.read 0x008 .b1)])) (fun t =>
    statusWord t == 0x54 && match t.replies with | [.data v _] => v == 0 | _ => false) = true := by decide
theorem test_key_reads_zero : nextIs (step { idle 0 [rd64 0x200] with key := [(0x200, 0x41)] }) (fun t =>
    t.replies == [.data 0 false] && !t.err) = true := by decide
theorem test_status_write_while_busy : nextIs (step (inFlight [wr 0x008 0xFF])) (fun t =>
    statusWord t == 0x47 && t.pending == some (.encrypt ⟨1, 2⟩)) = true := by decide
theorem test_reset_in_flight : nextIs (step (inFlight [.reset])) (fun t =>
    statusWord t == 0x0 && t.pending == none && t.dataL == 0 && t.dataR == 0) = true := by decide

/-! ### The cipher (sections 2.1 to 2.4) -/

/-- The key "TESTKEY". -/
def testkey : List Byte := [0x54, 0x45, 0x53, 0x54, 0x4B, 0x45, 0x59]
/-- S[t][e] = t * 0x100 + e (FN1, BK5). -/
def rampTables : Tables := Vector.ofFn fun t => Vector.ofFn fun e => BitVec.ofNat 64 (t.val * 0x100 + e.val)
/-- P[i] = i * 0x0101010101010101 with those tables (BK5). -/
def rampContext : Context :=
  { P := Vector.ofFn fun i => BitVec.ofNat 64 (i.val * 0x0101010101010101), S := rampTables }

theorem test_key_words_of_testkey : keyWord testkey 7 0 = 0x544553544B455954 ∧
    keyWord testkey 7 1 = 0x4553544B45595445 ∧ keyWord testkey 7 65 = 0x53544B4559544553 := by decide +kernel
theorem test_f_lane_order : fAlt8 rampTables 0x0706050403020100 = 0x0810 ∧
    fAlt8 rampTables 0x0101010101010901 = 0x0810 := by decide +kernel
theorem test_encrypt_block : encryptBlock fAlt8 rampContext ⟨1, 2⟩ =
    ⟨0x414141414141418B, 0x40404040404041BF⟩ := by decide +kernel
theorem test_decrypt_block : decryptBlock fAlt8 rampContext ⟨0, 0⟩ =
    ⟨0x4040404040404060, 0x414141414141423D⟩ := by decide +kernel

/-- No tables and F = 0: the linear case of 41_block_transform.md R118. -/
def linearParams : Params :=
  { baseP := Vector.replicate 66 0, baseS := Vector.replicate 8 (Vector.replicate 256 0), f := fun _ _ => 0 }
/-- A key of 16 bytes: the even key words are 0x0102030405060708, the odd ones 0x1112131415161718. -/
def sixteenBytes : List Byte := [1, 2, 3, 4, 5, 6, 7, 8, 0x11, 0x12, 0x13, 0x14, 0x15, 0x16, 0x17, 0x18]

/-- 40_key_schedule.md R91 and R93, worked by hand through R118: the halves of each output, the chain from one
encryption to the next and its last output, with which step 4 begins. -/
theorem test_bootstrap_of_the_subkeys :
    let x := bootstrapSubkeys linearParams (seededContext linearParams sixteenBytes 16, ⟨0, 0⟩)
    (List.range 8).map (subkey x.1.P) =
      [0x1112131415161718, 0x0102030405060708, 0, 0, 0x1010101010101010, 0x1010101010101010,
       0x0102030405060708, 0x1112131415161718] ∧
    subkey x.1.P 60 = 0x1112131415161718 ∧ x.2 = ⟨0x1010101010101010, 0x1010101010101010⟩ := by decide +kernel

/-! ### The candidate parameters, not conforming (45_seed_tables.md R131, 95_test_vectors.md section 3) -/

theorem test_pi_check_values : subkey piCandidate.baseP 0 = 0x243F6A8885A308D3 ∧
    subkey piCandidate.baseP 1 = 0x13198A2E03707344 ∧ subkey piCandidate.baseP 65 = 0xE3FE501AB6794C3B ∧
    entryAt piCandidate.baseS 0 0 = 0x976CE0BD04C006BA ∧
    entryAt piCandidate.baseS 7 255 = 0x8CF97F6ECE339C68 := by decide +kernel
theorem test_pi_words_listed : piSubkeyWords.length = 66 ∧ piTableWords0.length = 256 ∧
    piTableWords1.length = 256 ∧ piTableWords2.length = 256 ∧ piTableWords3.length = 256 ∧
    piTableWords4.length = 256 ∧ piTableWords5.length = 256 ∧ piTableWords6.length = 256 ∧
    piTableWords7.length = 256 := by decide +kernel
theorem test_pi_absorb_testkey : subkey (seededContext piCandidate testkey 7).P 0 = 0x707A39DCCEE65187 ∧
    subkey (seededContext piCandidate testkey 7).P 65 = 0xB0AA1B5FEF2D0968 := by decide +kernel
theorem test_pi_first_bootstrap : encryptBlock piCandidate.f (seededContext piCandidate [0x41] 1) ⟨0, 0⟩ =
    ⟨0x96ED062E63DD6350, 0x1C3CA9C5D18FA3F7⟩ := by decide +kernel

/-! ### Witnesses: concrete states and operands that meet the hypotheses of the obligations, clause by clause
where a statement has several -/

/-- A state that meets the invariant with a command in flight: keyed with the key 41, ENCRYPT of (1, 2). -/
def keyedInFlight : State :=
  { inFlight [.engine] with ctx := keySchedule Config.params [0x41] 1 }

theorem witness_DecodeInvertsEncode : (∀ i : Instr, i.wellFormed = true) ∧
    decodeBytes [0x03, 0, 0, 0, 0, 0, 0, 0, 0xAA] = .ok (.decrypt, [0xAA]) :=
  ⟨fun i => by cases i <;> rfl, by decide⟩
theorem witness_StepRunsDecodedCommand : (idle 7 [wr 0x000 1]).agenda = .host (.write 0x000 .b8 1) :: [] ∧
    decode 1 = .ok .init ∧ Instr.init.wellFormed = true := ⟨rfl, by decide, rfl⟩
theorem witness_IllegalWordIsRecorded : (idle 0 [wr 0x000 0x10]).agenda = .host (.write 0x000 .b8 0x10) :: [] ∧
    (idle 0 []).busy = false ∧ (0x10 : Word) >>> 4 ≠ 0 ∧ (0x8000000000000002 : Word) >>> 4 ≠ 0 ∧
    4 ≤ (0x4 : Word).toNat % 16 ∧ 4 ≤ (0xF : Word).toNat % 16 := by decide
theorem witness_NopChangesNothing : State.reset.busy = false := rfl
/-- The lengths 1 and 528; also for `InitBuildsTheKeySchedule`. -/
theorem witness_InitIsAccepted : (idle 1 []).busy = false ∧ 1 ≤ (idle 1 []).keylen.toNat ∧
    (idle 1 []).keylen.toNat ≤ 528 ∧ (idle 528 []).keylen.toNat = 528 := by decide
theorem witness_InitBuildsTheKeySchedule : (idle 528 []).busy = false ∧ 1 ≤ (idle 528 []).keylen.toNat ∧
    (idle 528 []).keylen.toNat ≤ 528 := by decide
/-- The lengths 0, 529 and 1023. -/
theorem witness_InitOutOfRangeIsRefused : (idle 0 []).busy = false ∧ (idle 0 []).keylen.toNat = 0 ∧
    (idle 529 []).busy = false ∧ 528 < (idle 529 []).keylen.toNat ∧ 528 < (idle 1023 []).keylen.toNat := by decide
/-- Also for `DecryptIsAccepted`, `EncryptReplacesTheBlock`, `DecryptReplacesTheBlock`. -/
theorem witness_EncryptIsAccepted : (keyedIdle 7 []).busy = false ∧ (keyedIdle 7 []).keyed = true := ⟨rfl, rfl⟩
theorem witness_DecryptIsAccepted : (keyedIdle 0 []).busy = false ∧ (keyedIdle 0 []).keyed = true := ⟨rfl, rfl⟩
theorem witness_EncryptReplacesTheBlock : (keyedIdle 1 []).busy = false ∧ (keyedIdle 1 []).keyed = true := ⟨rfl, rfl⟩
theorem witness_DecryptReplacesTheBlock : (keyedIdle 528 []).busy = false ∧ (keyedIdle 528 []).keyed = true := ⟨rfl, rfl⟩
theorem witness_BlockCommandsUndoEachOther : (keyedIdle 7 []).busy = false ∧ (keyedIdle 7 []).keyed = true ∧
    (keyedIdle 7 []).pending = none := ⟨rfl, rfl, rfl⟩
theorem witness_UnkeyedBlockCommandsAreRefused : State.reset.busy = false ∧ State.reset.keyed = false := ⟨rfl, rfl⟩
theorem witness_CommandsWhileBusyAreRefused : (inFlight []).busy = true ∧ (initInFlight []).busy = true := ⟨rfl, rfl⟩
/-- An acceptance, and a refusal. -/
theorem witness_AcceptanceFrame : (∃ t, exec .encrypt (keyedIdle 7 []) = .next t ∧ t.err = false) ∧
    (∃ t, exec .init (idle 0 []) = .next t ∧ t.err = true) ∧ (∃ t, exec .nop State.reset = .next t) :=
  ⟨⟨_, rfl, by decide⟩, ⟨_, rfl, by decide⟩, ⟨_, rfl⟩⟩
/-- INIT and ENCRYPT in flight, the engine's turn by an empty agenda and by its own turn. -/
theorem witness_CompletionFrame : (initInFlight []).busy = true ∧ engineIsNext (initInFlight []) ∧
    (∃ k n, (initInFlight []).pending = some (.init k n)) ∧ (inFlight [.engine]).busy = true ∧
    engineIsNext (inFlight [.engine]) ∧ ¬∃ k n, (inFlight [.engine]).pending = some (.init k n) :=
  ⟨rfl, .inl rfl, ⟨_, _, rfl⟩, rfl, .inr ⟨_, rfl⟩, by rintro ⟨k, n, h⟩; cases h⟩
theorem witness_InitReadsOnlyTheKeyBytes :
    let s := { idle 1 [] with key := [(0x200, 0x41), (0x201, 0x42)] }
    s.busy = false ∧ s.keylen.toNat = 1 ∧ s.key ≠ [(0x200, 0x41)] ∧
      ∀ j, j < s.keylen.toNat → Memory.read [(0x200, 0x41)] (0x200 + j) = s.key.read (0x200 + j) := by decide
/-- The agenda of each clause, and the ends of the KEY window for either size. -/
theorem witness_AcceptedReadsReturn : (idle 0 [rd64 0x020]).agenda = .host (.read 0x020 .b8) :: [] ∧
    (idle 0 [rd64 0x020]).busy = false ∧ (inFlight [rd64 0x028]).busy = true ∧
    0x200 ≤ (0x200#12).toNat ∧ (0x408#12).toNat ≤ 0x408 ∧ (0x200#12).toNat % 8 = 0 ∧
    (0x408#12).toNat % 8 = 0 ∧ (0x40F#12).toNat ≤ 0x40F := by decide
theorem witness_StatusRegisterLayout : (idle 0 [rd64 0x008]).agenda = .host (.read 0x008 .b8) :: [] ∧
    (idle 0 [wr 0x008 1]).agenda = .host (.write 0x008 .b8 1) :: [] ∧ (idle 0 [wr 0x008 1]).busy = false ∧
    (inFlight [wr 0x008 1]).agenda = .host (.write 0x008 .b8 1) :: [] ∧ (inFlight [wr 0x008 1]).busy = true := by decide
theorem witness_RegisterWritesStore : (idle 0 [wr 0x010 7]).busy = false ∧
    (idle 0 [wr 0x010 7]).agenda = .host (.write 0x010 .b8 7) :: [] ∧
    (idle 0 [wr 0x020 7]).agenda = .host (.write 0x020 .b8 7) :: [] ∧
    (idle 0 [wr 0x028 7]).agenda = .host (.write 0x028 .b8 7) :: [] := by decide
/-- The first and the last byte, the first and the last word of the window. -/
theorem witness_KeyWindowWritesStoreBytes : (idle 0 [wr 0x408 7]).busy = false ∧
    (idle 0 [wr 0x408 7]).key.wf = true ∧ (0x200#12).toNat = 0x200 + 0 ∧ (0x40F#12).toNat = 0x200 + 527 ∧
    (0x200#12).toNat = 0x200 + 8 * 0 ∧ (0x408#12).toNat = 0x200 + 8 * 65 := by decide
/-- A size, a 1-byte access beside the window, a misaligned and a reserved offset. -/
theorem witness_RejectedAccessesRecordBusError : rejectedAccess 0x000 .b2 ∧ rejectedAccess 0x200 .b4 ∧
    rejectedAccess 0x1FF .b1 ∧ rejectedAccess 0x410 .b1 ∧ rejectedAccess 0x409 .b8 ∧
    rejectedAccess 0x018 .b8 ∧ rejectedAccess 0x030 .b8 ∧ rejectedAccess 0x1F8 .b8 ∧ rejectedAccess 0x410 .b8 := by
  refine ⟨.inl rfl, .inr (.inl rfl), .inr (.inr (.inl (by decide))), .inr (.inr (.inl (by decide))),
    .inr (.inr (.inr (.inl (by decide)))), ?_, ?_, ?_, ?_⟩ <;>
  exact .inr (.inr (.inr (.inr ⟨0, by decide, by unfold reservedOffset; decide⟩)))
theorem witness_WritesWhileBusyAreRefused : (inFlight [wr 0x000 2]).busy = true ∧
    accepted 0x000 .b8 = true ∧ accepted 0x40F .b1 = true ∧ ¬rejectedAccess 0x000 .b8 ∧
    rejectedAccess 0x018 .b8 := by
  refine ⟨rfl, by decide, by decide, ?_, witness_RejectedAccessesRecordBusError.2.2.2.2.2.1⟩
  simp only [rejectedAccess, reservedOffset, byteCount]
  rintro (h | h | h | h | ⟨j, hj, h⟩)
  · cases h
  · cases h
  · cases h.1
  · exact h.2 (by decide)
  · simp at h; omega
theorem witness_FirstFailingCheckIsRecorded : (idle 0 [wr 0x000 1]).err = false ∧
    (idle 0 [wr 0x000 1]).errcode = 0 ∧ (inFlight [wr 0x000 1]).err = false ∧
    (inFlight [wr 0x000 1]).errcode = 0 ∧ (keyedIdle 529 [wr 0x000 1]).errcode = 0 := by decide
theorem witness_RaiseRecordsTheFirstError : State.reset.err = false ∧
    (raiseError .busError State.reset).err = true := ⟨rfl, rfl⟩
/-- A busy block with an error recorded, its step, and the agendas of the other two clauses. -/
theorem witness_ErrorRecordIsSticky :
    (∃ t, step (raiseError .notKeyed (inFlight [wr 0x008 0])) = .next t) ∧
    (raiseError .notKeyed (inFlight [wr 0x008 0])).err = true ∧
    (¬∃ rest, (raiseError .notKeyed (inFlight [wr 0x008 0])).agenda = .reset :: rest) ∧
    (inFlight [.reset]).agenda = .reset :: [] ∧
    (idle 0 [wr 0x008 0]).agenda = .host (.write 0x008 .b8 0) :: [] ∧ (idle 0 [wr 0x008 0]).busy = false :=
  ⟨⟨_, rfl⟩, rfl, (by rintro ⟨r, h⟩; cases h), rfl, rfl, rfl⟩
theorem witness_ErrorsHaveNoOtherEffect : ∃ t, step (idle 0 [wr 0x000 1]) = .next t ∧
    (¬∃ rest, (idle 0 [wr 0x000 1]).agenda = .reset :: rest) ∧ t.err ≠ (idle 0 [wr 0x000 1]).err ∧
    t.errcode ≠ (idle 0 [wr 0x000 1]).errcode :=
  ⟨_, rfl, (by rintro ⟨r, h⟩; cases h), by decide, by decide⟩
/-- The invariant holds of a keyed block with ENCRYPT in flight, whose step is the completion. -/
theorem witness_StepKeepsTheInvariant : Inv keyedInFlight ∧ ∃ t, step keyedInFlight = .next t :=
  ⟨{ busy_iff_pending := rfl
     no_code_without_err := fun _ => rfl
     code_with_err := fun h => by cases h
     key_wf := rfl
     init_in_flight := fun k n h => by cases h
     encrypt_in_flight := fun b h => by cases h; exact ⟨rfl, rfl⟩
     decrypt_in_flight := fun b h => by cases h
     keyed_context := fun _ => ⟨[0x41], 1, rfl, by decide, rfl⟩ }, ⟨_, rfl⟩⟩
/-- A write, an INIT completion and a reset. -/
theorem witness_OnlyInitWritesTheContext : (∃ t, step (idle 0 [wr 0x010 7]) = .next t ∧ t.ctx = (idle 0 []).ctx) ∧
    (∃ t, step (initInFlight []) = .next t ∧ engineIsNext (initInFlight []) ∧
      t.ctx = runKeySchedule Config.params [0x41] 1 (initInFlight []).ctx) ∧
    (∃ t, step (keyedIdle 7 [.reset]) = .next t ∧ t.keyed = false) :=
  ⟨⟨_, rfl, rfl⟩, ⟨_, rfl, .inl rfl, rfl⟩, ⟨_, rfl, rfl⟩⟩
/-- A step that writes each register, and a completion (whose value nothing fixes). -/
theorem witness_WritersOfTheHostRegisters :
    (∃ t, step (idle 0 [wr 0x200 7]) = .next t ∧ t.key ≠ (idle 0 [wr 0x200 7]).key) ∧
    (∃ t, step (idle 0 [wr 0x010 7]) = .next t ∧ t.keylen ≠ (idle 0 [wr 0x010 7]).keylen) ∧
    (∃ t, step (idle 0 [wr 0x020 7]) = .next t ∧ t.dataL ≠ (idle 0 [wr 0x020 7]).dataL) ∧
    (∃ t, step (idle 0 [wr 0x028 7]) = .next t ∧ t.dataR ≠ (idle 0 [wr 0x028 7]).dataR) ∧
    ∀ a, ¬∃ rest, (idle 0 [.host a]).agenda = .reset :: rest :=
  ⟨⟨_, rfl, by decide⟩, ⟨_, rfl, by decide⟩, ⟨_, rfl, by decide⟩, ⟨_, rfl, by decide⟩,
    by rintro a ⟨r, h⟩; cases h⟩
/-- KEYED set by a completion, cleared by an accepted INIT (lengths 1 and 528) and by reset. -/
theorem witness_KeyedChangesOnlyByInitAndReset :
    (∃ t, step (initInFlight []) = .next t ∧ (initInFlight []).keyed = false ∧ t.keyed = true) ∧
    (∃ t, step (keyedIdle 1 [wr 0x000 1]) = .next t ∧ (keyedIdle 1 []).keyed = true ∧ t.keyed = false) ∧
    (∃ t, step (keyedIdle 528 [wr 0x000 1]) = .next t ∧ t.keyed = false) ∧
    (∃ t, step (keyedIdle 7 [.reset]) = .next t ∧ t.keyed = false) ∧
    engineIsNext (initInFlight [.engine]) ∧ (initInFlight [.engine]).busy = true :=
  ⟨⟨_, rfl, rfl, rfl⟩, ⟨_, rfl, rfl, by decide⟩, ⟨_, rfl, by decide⟩, ⟨_, rfl, rfl⟩, .inr ⟨_, rfl⟩, rfl⟩
theorem witness_BusyChangesOnlyByCommandAndEngine :
    (∃ t, step (keyedIdle 7 [wr 0x000 3]) = .next t ∧ (keyedIdle 7 []).busy = false ∧ t.busy = true) ∧
    (∃ t, step (inFlight [.engine]) = .next t ∧ (inFlight [.engine]).busy = true ∧ t.busy = false) ∧
    (∃ t, step (inFlight [.reset]) = .next t ∧ t.busy = false) ∧ engineIsNext (inFlight [.engine]) :=
  ⟨⟨_, rfl, rfl, by decide⟩, ⟨_, rfl, rfl, rfl⟩, ⟨_, rfl, rfl⟩, .inr ⟨_, rfl⟩⟩
/-- Also for `CommandInFlightCompletes`, which has the same hypothesis. -/
theorem witness_CommandInFlightIsUndisturbed : (inFlight [wr 0x000 0]).busy = true := rfl
theorem witness_CommandInFlightCompletes : (initInFlight [wr 0x000 0, .reset]).busy = true := rfl
/-- Two blocks with an INIT in flight that differ in the key byte. -/
theorem witness_HostAccessesDoNotRevealTheKey :
    let t := { initInFlight [] with key := [(0x200, 0x42)], pending := some (.init [0x42] 1) }
    SameButSecret (initInFlight []) t ∧ (initInFlight []).key ≠ t.key :=
  ⟨⟨rfl, rfl, rfl, rfl, rfl, rfl, rfl, rfl, rfl, rfl⟩, by decide⟩
theorem witness_ResetAbandonsTheCommand : (inFlight [.reset]).agenda = .reset :: [] := rfl
theorem witness_WindowIsSelectedByAddress : Config.bfiiBase + 0x1000 ≤ Config.bfiiBase + 0x1000 := Nat.le_refl _
theorem witness_KeyBufferFormIsCanonical : Memory.wf [(0x200, 0x41), (0x40F, 0x42)] = true ∧
    (∀ a, Memory.read [(0x200, 0x41), (0x40F, 0x42)] a =
      Memory.read ((Memory.write [] 0x40F 0x42).write 0x200 0x41) a) := ⟨by decide, fun _ => rfl⟩
/-- Two arguments that differ in lane 7 only. -/
theorem witness_RoundFunctionCornerCases : (0 : Word) ≠ 0x80 ∧
    ∀ u : Fin 8, u ≠ 7 → (0 : Word).extractLsb' (8 * (7 - u.val)) 8 = (0x80 : Word).extractLsb' (8 * (7 - u.val)) 8 := by decide
theorem witness_LinearCaseOfEncrypt : ∀ x : Word, (fun (_ : Tables) (_ : Word) => (0 : Word)) rampTables x = 0 :=
  fun _ => rfl
theorem witness_RekeyingForgetsTheEarlierContext : (initInFlight [.engine]).busy = true ∧
    (initInFlight [.engine]).pending = some (.init [0x41] 1) ∧
    (initInFlight [.engine]).agenda = .engine :: [] := ⟨rfl, rfl, rfl⟩
/-- The key 41 once and 528 times; on the machine, twice; and a repetition too long by one. -/
theorem witness_RepeatedKeyGivesTheSameContext : 1 * [0x41].length ≤ 528 ∧ 528 * [0x41].length ≤ 528 ∧
    (idle 1 []).keylen.toNat = 1 ∧ (idle 2 []).keylen.toNat = 2 * (idle 1 []).keylen.toNat ∧
    2 * (idle 1 []).keylen.toNat ≤ 528 ∧
    (∀ j, j < 2 * (idle 1 []).keylen.toNat → Memory.read [(0x200, 0x41), (0x201, 0x41)] (0x200 + j) =
      Memory.read [(0x200, 0x41)] (0x200 + j % (idle 1 []).keylen.toNat)) ∧
    (idle 529 []).keylen.toNat = 529 * (idle 1 []).keylen.toNat ∧ 528 < 529 * (idle 1 []).keylen.toNat := by decide

end Sys2Proof.Tests
end

/-! STATUS (10_state.md R32): the bits of the word it reads as, and what an accepted access to a
register does in one step. -/

namespace Sys2Proof.Machine

open Sys2Proof.Safety

variable {s : State}

/-! ### One step that takes a host access, as the state `answered` -/

/-- A read that is accepted and draws no free value only answers (20_memory.md R55). -/
theorem step_read_of_accepted {off : BitVec 12} {size : AccessSize} {rest : List Turn}
    (h : s.agenda = .host (.read off size) :: rest) (ha : accepted off size = true)
    (hd : readDraws off s = false) :
    step s = .next (answered s rest (.data (readValue off s) false)) := by
  have hd' : readDraws off (s.withAgenda rest) = false := hd
  simp only [step, h, hostTurn, hostRead, ha, hd', if_true, Bool.false_eq_true, if_false]
  rfl

/-- An accepted write acknowledges, then either meets a busy block or has its effect
(20_memory.md R56, 60_exceptions.md R145). -/
theorem step_write_of_accepted {off : BitVec 12} {size : AccessSize} {v : Word} {rest : List Turn}
    (h : s.agenda = .host (.write off size v) :: rest) (ha : accepted off size = true) :
    step s = if s.busy then .next (recorded 4 (answered s rest (.done false)))
      else writeEffect off size v (answered s rest (.done false)) := by
  simp only [step, h, hostTurn, hostWrite, writeReply, ha, if_true, Bool.not_true, Bool.false_and]
  rfl

/-! ### STATUS in the register window -/

/-- A read of STATUS never draws a free value. -/
theorem readDraws_status (s : State) : readDraws 0x008#12 s = false := by
  simp [readDraws]

theorem readValue_status (s : State) : readValue 0x008#12 s = statusWord s := by
  simp [readValue]

/-- STATUS is read-only: a write has no effect of its own there (10_state.md R32). -/
theorem writeEffect_status (size : AccessSize) (v : Word) (s : State) :
    writeEffect 0x008#12 size v s = .next s := by
  simp [writeEffect]

/-! ### The bits of STATUS -/

/-- A flag stands in bit 0 alone. -/
theorem flagWord_getLsbD (b : Bool) (i : Nat) : (flagWord b).getLsbD i = (decide (i = 0) && b) := by
  by_cases hi : i = 0 <;> simp [flagWord, hi]

/-- The layout bit by bit: BUSY, KEYED and ERR in bits 0 to 2, nothing in bit 3, ERRCODE from bit 4 on. -/
theorem statusWord_getLsbD (s : State) {i : Nat} (hi : i < 64) :
    (statusWord s).getLsbD i =
      if i < 4 then decide (i = 0) && s.busy || decide (i = 1) && s.keyed || decide (i = 2) && s.err
      else s.errcode.getLsbD (i - 4) := by
  simp only [statusWord, BitVec.getLsbD_or, BitVec.getLsbD_shiftLeft, BitVec.getLsbD_setWidth,
    flagWord_getLsbD]
  split
  case isTrue hlow => interval_cases i <;> simp
  case isFalse hhigh =>
    have hpos : i ≠ 0 ∧ i - 1 ≠ 0 ∧ i - 2 ≠ 0 ∧ i - 4 < 64 := by omega
    simp [hpos, hi, hhigh]

theorem statusWord_busy (s : State) : (statusWord s).getLsbD 0 = s.busy := by
  rw [statusWord_getLsbD s (by omega)]; simp

theorem statusWord_keyed (s : State) : (statusWord s).getLsbD 1 = s.keyed := by
  rw [statusWord_getLsbD s (by omega)]; simp

theorem statusWord_err (s : State) : (statusWord s).getLsbD 2 = s.err := by
  rw [statusWord_getLsbD s (by omega)]; simp

theorem statusWord_bit3 (s : State) : (statusWord s).getLsbD 3 = false := by
  rw [statusWord_getLsbD s (by omega)]; simp

theorem statusWord_errcode (s : State) : (statusWord s).extractLsb' 4 4 = s.errcode := by
  apply BitVec.eq_of_getLsbD_eq
  intro i hi
  rw [BitVec.getLsbD_extractLsb', statusWord_getLsbD s (by omega), if_neg (by omega),
    Nat.add_sub_cancel_left]
  simp [hi]

/-- ERRCODE is 4 bits wide, so nothing of it reaches bit 8. -/
theorem statusWord_reserved (s : State) : (statusWord s).extractLsb' 8 56 = 0 := by
  apply BitVec.eq_of_getLsbD_eq
  intro i hi
  rw [BitVec.getLsbD_extractLsb', statusWord_getLsbD s (by omega), if_neg (by omega),
    BitVec.getLsbD_of_ge s.errcode _ (by omega)]
  simp

/-- Settles O21, by the step of an accepted access and the bits of `statusWord`. -/
theorem statusRegisterLayout : Obligations.StatusRegisterLayout := by
  unfold Obligations.StatusRegisterLayout
  refine ⟨fun s rest h => ?_, fun s rest w h => ?_, rfl, rfl, rfl, rfl⟩
  · have hstep := step_read_of_accepted (off := 0x008#12) h accepted_status (readDraws_status s)
    rw [readValue_status] at hstep
    exact ⟨statusWord s, hstep, statusWord_busy s, statusWord_keyed s, statusWord_err s,
      statusWord_bit3 s, statusWord_errcode s, statusWord_reserved s⟩
  · have hstep := step_write_of_accepted (off := 0x008#12) h accepted_status
    rw [writeEffect_status] at hstep
    exact ⟨fun hidle => by simpa [hidle] using hstep, fun hbusy => by simpa [hbusy] using hstep⟩

end Sys2Proof.Machine

/-! The key schedule (40_key_schedule.md): what its loops leave in the context, the completion of INIT, keys
that repeat, and the chain of the bootstrap. -/

namespace Sys2Proof.Machine

open Sys2Proof.Safety

variable {s : State} {c d : Context} (p : Params) (key : List Byte) (n : Nat)

theorem context_ext (hP : c.P = d.P) (hS : c.S = d.S) : c = d := by
  cases c
  cases d
  exact congrArg₂ Context.mk hP hS

/-! ### Step 1: the seed tables (40_key_schedule.md R89) -/

/-- Pass `k` of step 1, its two loops run as one: entry `k % 256` of table `k / 256`. -/
def seedEntry (c : Context) (k : Nat) : Context :=
  setEntry c (k / 256) (k % 256) (entryAt p.baseS (k / 256) (k % 256))

theorem seedTables_eq_foldl (c : Context) :
    seedTables p c = (List.range (8 * 256)).foldl (seedEntry p) c := by
  unfold seedTables
  exact foldl_range_mul 8 256 (fun c t e => setEntry c t e (entryAt p.baseS t e)) c

/-- After `m` passes the first `m` entries are the seed's, and the others as they were. -/
theorem entryAt_foldl_seedEntry (c : Context) {t e : Nat} (ht : t < 8) (he : e < 256) (m : Nat) :
    entryAt ((List.range m).foldl (seedEntry p) c).S t e =
      if 256 * t + e < m then entryAt p.baseS t e else entryAt c.S t e := by
  induction m with
  | zero => simp
  | succ m ih =>
    rw [List.range_succ, List.foldl_append, List.foldl_cons, List.foldl_nil, seedEntry,
      entryAt_setEntry _ _ _ _ _ _ ht he, ih]
    by_cases hm : m / 256 = t ∧ m % 256 = e
    · obtain ⟨rfl, rfl⟩ := hm
      rw [if_pos ⟨rfl, rfl⟩, if_pos (by omega)]
    · have hlt : 256 * t + e < m + 1 ↔ 256 * t + e < m := by omega
      simp only [hm, hlt, if_false]

/-- Step 1 leaves nothing of the earlier tables (40_key_schedule.md R95). -/
theorem seedTables_S (c : Context) : (seedTables p c).S = p.baseS := by
  refine tables_ext fun t e ht he => ?_
  rw [seedTables_eq_foldl, entryAt_foldl_seedEntry p c ht he, if_pos (by omega)]

/-! ### Step 2: the key words (40_key_schedule.md R88, R90) -/

/-- Eight bytes from the running index of word `i` are KeyWord(K, n, i), and leave the index of word `i + 1`. -/
theorem takeKeyWord_eq (i : Nat) :
    takeKeyWord key n (8 * i % n) = (keyWord key n i, 8 * (i + 1) % n) := by
  have bytes : ∀ m, (List.range m).foldl (fun x _ => takeKeyByte key n x) ((0 : Word), 8 * i % n) =
      ((List.range m).foldl (fun (d : Word) k => d <<< 8 ||| (keyAt key ((8 * i + k) % n)).setWidth 64) 0,
        (8 * i + m) % n) := by
    intro m
    induction m with
    | zero => rfl
    | succ m ih =>
      simp only [List.range_succ, List.foldl_append, List.foldl_cons, List.foldl_nil, ih]
      simp only [takeKeyByte, Nat.mod_add_mod, Nat.add_assoc]
  exact bytes 8

/-- One pass of step 2: subkey `i` from the key word at the running index. -/
def absorbWord (x : Context × Nat) (i : Nat) : Context × Nat :=
  (setSubkey x.1 i (subkey p.baseP i ^^^ (takeKeyWord key n x.2).1), (takeKeyWord key n x.2).2)

/-- The context and the running index after `m` passes of step 2. -/
def absorbed (c : Context) (m : Nat) : Context × Nat :=
  (List.range m).foldl (absorbWord p key n) (c, 0)

theorem absorbKey_eq (c : Context) : absorbKey p key n c = (absorbed p key n c 66).1 := by
  unfold absorbKey
  rfl

theorem absorbed_succ (c : Context) (m : Nat) :
    absorbed p key n c (m + 1) = absorbWord p key n (absorbed p key n c m) m := by
  simp [absorbed, List.range_succ]

/-- The running index never loses its place in the cyclic key (40_key_schedule.md R87). -/
theorem absorbed_index (c : Context) (m : Nat) : (absorbed p key n c m).2 = 8 * m % n := by
  induction m with
  | zero => simp [absorbed]
  | succ m ih => rw [absorbed_succ, absorbWord, ih, takeKeyWord_eq]

theorem absorbed_succ_context (c : Context) (m : Nat) :
    (absorbed p key n c (m + 1)).1 =
      setSubkey (absorbed p key n c m).1 m (subkey p.baseP m ^^^ keyWord key n m) := by
  rw [absorbed_succ, absorbWord, absorbed_index, takeKeyWord_eq]

theorem absorbed_S (c : Context) (m : Nat) : (absorbed p key n c m).1.S = c.S := by
  induction m with
  | zero => rfl
  | succ m ih => rw [absorbed_succ_context, setSubkey_S, ih]

/-- After `m` passes the first `m` subkeys have absorbed their key words. -/
theorem absorbed_subkey (c : Context) {i : Nat} (hi : i < 66) (m : Nat) :
    subkey (absorbed p key n c m).1.P i =
      if i < m then subkey p.baseP i ^^^ keyWord key n i else subkey c.P i := by
  induction m with
  | zero => rfl
  | succ m ih =>
    rw [absorbed_succ_context, subkey_setSubkey _ _ _ _ hi, ih]
    by_cases hm : m = i
    · subst hm
      rw [if_pos rfl, if_pos (Nat.lt_succ_self m)]
    · have hlt : i < m + 1 ↔ i < m := by omega
      simp only [hm, hlt, if_false]

theorem absorbKey_S (c : Context) : (absorbKey p key n c).S = c.S := by
  rw [absorbKey_eq, absorbed_S]

theorem absorbKey_subkey (c : Context) {i : Nat} (hi : i < 66) :
    subkey (absorbKey p key n c).P i = subkey p.baseP i ^^^ keyWord key n i := by
  rw [absorbKey_eq, absorbed_subkey p key n c hi, if_pos hi]

theorem seededContext_subkey {i : Nat} (hi : i < 66) :
    subkey (seededContext p key n).P i = subkey p.baseP i ^^^ keyWord key n i := by
  rw [subkey_of_lt _ hi, seededContext, Vector.getElem_ofFn]

/-- Steps 1 and 2 write every entry before anything reads one (40_key_schedule.md R95). -/
theorem absorbKey_seedTables (c : Context) :
    absorbKey p key n (seedTables p c) = seededContext p key n := by
  refine context_ext (subkeys_ext fun i hi => ?_) ?_
  · rw [absorbKey_subkey p key n _ hi, seededContext_subkey p key n hi]
  · rw [absorbKey_S, seedTables_S, seededContext]

theorem runKeySchedule_eq (c : Context) : runKeySchedule p key n c = keySchedule p key n := by
  rw [runKeySchedule, absorbKey_seedTables, keySchedule]

/-! ### The command INIT (40_key_schedule.md R96) -/

theorem complete_of_init {key : List Byte} {n : BitVec 10} (hp : s.pending = some (.init key n)) :
    complete p s = completeInit p key n s := by
  simp only [complete, hp]

theorem step_of_engineTurn {rest : List Turn} (ha : s.agenda = .engine :: rest) :
    step s = .next (engineTurn Config.params (s.withAgenda rest)) := by
  simp only [step, ha]

theorem completeInit_eq (key : List Byte) (n : BitVec 10) (s : State) :
    completeInit p key n s = ((s.withCtx (keySchedule p key n.toNat)).withKeyed true).withIdle := by
  rw [completeInit, runKeySchedule_eq]

/-- The named updates of a turn that completes INIT, as one record. -/
theorem withIdle_of_init (rest : List Turn) (x : Context) :
    (((s.withAgenda rest).withCtx x).withKeyed true).withIdle =
      { s with ctx := x, keyed := true, busy := false, pending := none, agenda := rest } := rfl

/-- The completion of INIT: KeySchedule of the recorded key into P and S, KEYED <- 1, and nothing else but
BUSY and PENDING. -/
theorem step_completes_init {rest : List Turn} {key : List Byte} {n : BitVec 10} (hb : s.busy = true)
    (hp : s.pending = some (.init key n)) (ha : s.agenda = .engine :: rest) :
    step s = .next { s with
      ctx := keySchedule Config.params key n.toNat
      keyed := true, busy := false, pending := none, agenda := rest } := by
  have hb' : (s.withAgenda rest).busy = true := hb
  have hp' : (s.withAgenda rest).pending = some (.init key n) := hp
  rw [step_of_engineTurn ha, engineTurn_busy _ hb', complete_of_init _ hp', completeInit_eq, withIdle_of_init]

theorem keyLengthOk_iff {n : Nat} : keyLengthOk n = true ↔ 1 ≤ n ∧ n ≤ 528 := by
  simp [keyLengthOk]

theorem exec_init_of_keyLengthOk (hb : s.busy = false) (hk : keyLengthOk s.keylen.toNat = true) :
    exec .init s = .next ((s.withPending (initOperands s)).withKeyed false) := by
  simp only [exec, execInit, unlessBusy_idle _ hb, hk, if_true]

theorem exec_init_of_badKeylen (hb : s.busy = false) (hk : ¬keyLengthOk s.keylen.toNat = true) :
    exec .init s = .next (raiseError .badKeylen s) := by
  simp only [exec, execInit, unlessBusy_idle _ hb, hk, if_false, Bool.false_eq_true]

/-- INIT on an idle block, accepted and then completed (40_key_schedule.md R96). -/
theorem exec_init_then_step (rest : List Turn) (hb : s.busy = false) (hk : keyLengthOk s.keylen.toNat = true) :
    ∃ t, exec .init s = .next t ∧ step { t with agenda := .engine :: rest } = .next { s with
      ctx := keySchedule Config.params (keyBytes s s.keylen.toNat) s.keylen.toNat
      keyed := true, busy := false, pending := none, agenda := rest } :=
  ⟨_, exec_init_of_keyLengthOk hb hk, step_completes_init rfl rfl rfl⟩

/-- Settles O51: the loops forget the earlier context because steps 1 and 2 overwrite all of it. -/
theorem rekeyingForgetsTheEarlierContext : Obligations.RekeyingForgetsTheEarlierContext :=
  ⟨runKeySchedule_eq, fun _ _ _ _ => step_completes_init⟩

/-! ### Keys that repeat (40_key_schedule.md R98) -/

/-- Reading a key of length `n` cyclically and reading a key that is it, repeated, gives the same words. -/
theorem keyWord_eq_of_repeats {key key' : List Byte} {n n' : Nat} (hpos : 0 < n') (hdvd : n ∣ n')
    (hrep : ∀ j, j < n' → keyAt key' j = keyAt key (j % n)) (i : Nat) :
    keyWord key' n' i = keyWord key n i := by
  refine foldl_range_congr _ _ fun d k _ => ?_
  rw [hrep _ (Nat.mod_lt _ hpos), Nat.mod_mod_of_dvd _ hdvd]

/-- The key enters the schedule through its key words alone. -/
theorem keySchedule_congr {key key' : List Byte} {n n' : Nat}
    (h : ∀ i, keyWord key' n' i = keyWord key n i) : keySchedule p key' n' = keySchedule p key n := by
  simp only [keySchedule, seededContext, h]

theorem keyAt_repeatKey (m : Nat) {j : Nat} (hj : j < m * key.length) :
    keyAt (repeatKey key m) j = keyAt key (j % key.length) := by
  induction m generalizing j with
  | zero => omega
  | succ m ih =>
    have hcons : repeatKey key (m + 1) = key ++ repeatKey key m := by
      simp [repeatKey, List.replicate_succ]
    rw [hcons, keyAt]
    by_cases hlt : j < key.length
    · rw [List.getD_append _ _ _ _ hlt, Nat.mod_eq_of_lt hlt, keyAt]
    · have hge : key.length ≤ j := Nat.le_of_not_lt hlt
      rw [Nat.succ_mul] at hj
      rw [List.getD_append_right _ _ _ _ hge, Nat.mod_eq_sub_mod hge]
      exact ih (by omega)

theorem keyAt_keyBytes (s : State) {n j : Nat} (hj : j < n) : keyAt (keyBytes s n) j = keyByte s j := by
  simp [keyAt, keyBytes, hj]

theorem keySchedule_repeatKey {m : Nat} (hpos : 0 < m * key.length) :
    keySchedule p (repeatKey key m) (m * key.length) = keySchedule p key key.length :=
  keySchedule_congr p <| keyWord_eq_of_repeats hpos (Nat.dvd_mul_left _ _) fun _ => keyAt_repeatKey key m

/-- Two key buffers, the second holding the first `n` bytes of the first over and over. -/
theorem keySchedule_keyBytes_of_repeats {s u : State} {n n' : Nat} (hn : 0 < n) (hpos : 0 < n')
    (hdvd : n ∣ n') (hrep : ∀ j, j < n' → keyByte u j = keyByte s (j % n)) :
    keySchedule p (keyBytes u n') n' = keySchedule p (keyBytes s n) n := by
  refine keySchedule_congr p <| keyWord_eq_of_repeats hpos hdvd fun j hj => ?_
  rw [keyAt_keyBytes u hj, keyAt_keyBytes s (Nat.mod_lt j hn), hrep j hj]

/-- Settles O52: the key words of a repeated key are those of the key, and the machine's INIT runs the
schedule of the bytes it holds. -/
theorem repeatedKeyGivesTheSameContext : Obligations.RepeatedKeyGivesTheSameContext := by
  unfold Obligations.RepeatedKeyGivesTheSameContext
  refine ⟨fun p key m hlen hm _ => keySchedule_repeatKey p key (Nat.mul_pos hm hlen),
    fun s u m hs hu hn hm hlen => ⟨fun hmax hrep => ?_, fun hover => ?_⟩, by decide⟩
  · have hle : s.keylen.toNat ≤ m * s.keylen.toNat := Nat.le_mul_of_pos_left _ hm
    obtain ⟨t, hst, ht⟩ := exec_init_then_step [] hs (keyLengthOk_iff.mpr ⟨hn, by omega⟩)
    obtain ⟨v, huv, hv⟩ := exec_init_then_step [] hu (keyLengthOk_iff.mpr ⟨by omega, by omega⟩)
    refine ⟨t, v, _, _, hst, ht, huv, hv, ?_, rfl, rfl⟩
    exact (keySchedule_keyBytes_of_repeats _ hn (by omega) (hlen ▸ Nat.dvd_mul_left _ _)
      (hlen ▸ hrep)).symm
  · rw [exec_init_of_badKeylen hu (by rw [keyLengthOk_iff]; omega)]
    rfl

/-! ### The context as one row of entries, in the order the bootstrap fills it (40_key_schedule.md R91, R92) -/

/-- Entry `q` of the context: the 66 subkeys, then the tables one after another. -/
def contextEntry (c : Context) (q : Nat) : Word :=
  if q < 66 then subkey c.P q else entryAt c.S ((q - 66) / 256) ((q - 66) % 256)

/-- The half of a block that goes to entry `q`: the left half at the even index. -/
def halfAt (b : Block) (q : Nat) : Word := if q % 2 = 0 then b.L else b.R

theorem contextEntry_subkey (c : Context) {i : Nat} (hi : i < 66) : contextEntry c i = subkey c.P i :=
  if_pos hi

theorem contextEntry_entryAt (c : Context) {t e : Nat} (he : e < 256) :
    contextEntry c (66 + (256 * t + e)) = entryAt c.S t e := by
  have ht : (256 * t + e) / 256 = t := by omega
  have hd : (256 * t + e) % 256 = e := by omega
  rw [contextEntry, if_neg (by omega), Nat.add_sub_cancel_left, ht, hd]

/-- Two contexts with the same 2114 entries are the same. -/
theorem context_ext_entries (h : ∀ q, q < 2114 → contextEntry c q = contextEntry d q) : c = d := by
  refine context_ext (subkeys_ext fun i hi => ?_) (tables_ext fun t e ht he => ?_)
  · rw [← contextEntry_subkey c hi, ← contextEntry_subkey d hi, h i (by omega)]
  · rw [← contextEntry_entryAt c he, ← contextEntry_entryAt d he, h _ (by omega)]

/-- Pair `j` is the entries `2j` and `2j + 1`. -/
theorem bootstrapPair_eq (c : Context) (j : Nat) :
    bootstrapPair c j = { L := contextEntry c (2 * j), R := contextEntry c (2 * j + 1) } := by
  unfold bootstrapPair
  by_cases hj : j < 33
  · rw [if_pos hj, contextEntry_subkey c (by omega), contextEntry_subkey c (by omega)]
  · have hL : 2 * j = 66 + (256 * ((j - 33) / 128) + 2 * ((j - 33) % 128)) := by omega
    have hR : 2 * j + 1 = 66 + (256 * ((j - 33) / 128) + (2 * ((j - 33) % 128) + 1)) := by omega
    rw [if_neg hj, hL, contextEntry_entryAt c (by omega), ← hL, hR, contextEntry_entryAt c (by omega)]

/-- Encryption `j` reads the finished context below entry `2j` and the seeded one from there on. -/
theorem contextEntry_bootstrapReads (c0 c : Context) (j : Nat) {q : Nat} (hq : q < 2114) :
    contextEntry (bootstrapReads c0 c j) q =
      if q / 2 < j then contextEntry c q else contextEntry c0 q := by
  by_cases h66 : q < 66
  · simp only [contextEntry_subkey _ h66, bootstrapReads, subkey_of_lt _ h66, Vector.getElem_ofFn]
  · have ht : (q - 66) / 256 < 8 := by omega
    have he : (q - 66) % 256 < 256 := by omega
    have hpair : 33 + 128 * ((q - 66) / 256) + (q - 66) % 256 / 2 = q / 2 := by omega
    simp only [contextEntry, h66, if_false, bootstrapReads, entryAt_of_lt _ ht he, Vector.getElem_ofFn, hpair]

/-! ### Steps 3 and 4: the bootstrap as one loop (40_key_schedule.md R91 to R93) -/

/-- The write of encryption `j`: both halves of `b` to the entries of pair `j`. -/
def writePair (c : Context) (j : Nat) (b : Block) : Context :=
  if j < 33 then setSubkey (setSubkey c (2 * j) b.L) (2 * j + 1) b.R
  else
    setEntry (setEntry c ((j - 33) / 128) (2 * ((j - 33) % 128)) b.L)
      ((j - 33) / 128) (2 * ((j - 33) % 128) + 1) b.R

/-- Two writes at neighbouring numbers, seen as one write of a pair. -/
theorem ite_pair_eq_halfAt (b : Block) (j q : Nat) (v : Word) :
    (if 2 * j + 1 = q then b.R else if 2 * j = q then b.L else v) = if q / 2 = j then halfAt b q else v := by
  by_cases hR : 2 * j + 1 = q
  · rw [if_pos hR, if_pos (by omega), halfAt, if_neg (by omega)]
  · by_cases hL : 2 * j = q
    · rw [if_neg hR, if_pos hL, if_pos (by omega), halfAt, if_pos (by omega)]
    · rw [if_neg hR, if_neg hL, if_neg (by omega)]

/-- What the write of pair `j` changes. -/
theorem contextEntry_writePair (c : Context) (j : Nat) (b : Block) {q : Nat} (hq : q < 2114) :
    contextEntry (writePair c j b) q = if q / 2 = j then halfAt b q else contextEntry c q := by
  by_cases hj : j < 33
  · rw [writePair, if_pos hj]
    by_cases h66 : q < 66
    · simp only [contextEntry_subkey _ h66, subkey_setSubkey _ _ _ _ h66, ite_pair_eq_halfAt]
    · have hne : q / 2 ≠ j := by omega
      simp only [contextEntry, h66, hne, if_false, setSubkey_S]
  · rw [writePair, if_neg hj]
    by_cases h66 : q < 66
    · have hne : q / 2 ≠ j := by omega
      simp only [contextEntry, h66, hne, if_true, if_false, setEntry_P]
    · have ht : (q - 66) / 256 < 8 := by omega
      have he : (q - 66) % 256 < 256 := by omega
      have hR : (j - 33) / 128 = (q - 66) / 256 ∧
          2 * ((j - 33) % 128) + 1 = (q - 66) % 256 ↔ 2 * j + 1 = q := by
        omega
      have hL : (j - 33) / 128 = (q - 66) / 256 ∧ 2 * ((j - 33) % 128) = (q - 66) % 256 ↔ 2 * j = q := by
        omega
      simp only [contextEntry, h66, if_false, entryAt_setEntry _ _ _ _ _ _ ht he, hR, hL, ite_pair_eq_halfAt]

/-- Encryption `j` of the bootstrap and its write. -/
def bootstrapStep (x : Context × Block) (j : Nat) : Context × Block :=
  (writePair x.1 j (encryptBlock p.f x.1 x.2), encryptBlock p.f x.1 x.2)

/-- The context and the chained block after `m` encryptions, from the all-zero block. -/
def bootstrapRun (c : Context) (m : Nat) : Context × Block :=
  (List.range m).foldl (bootstrapStep p) (c, { L := 0, R := 0 })

theorem bootstrapSubkeys_eq_foldl (x : Context × Block) :
    bootstrapSubkeys p x = (List.range 33).foldl (bootstrapStep p) x :=
  foldl_range_congr _ _ fun y j hj => by simp only [bootstrapStep, writePair, hj, if_true]

theorem bootstrapTables_eq_foldl (x : Context × Block) :
    bootstrapTables p x = (List.range (8 * 128)).foldl (fun y k => bootstrapStep p y (33 + k)) x := by
  rw [bootstrapTables, foldl_range_mul 8 128]
  refine foldl_range_congr _ _ fun y k _ => ?_
  have hk : ¬33 + k < 33 := by omega
  simp only [bootstrapStep, writePair, hk, if_false, Nat.add_sub_cancel_left]

/-- The 33 encryptions for P and the 8 x 128 for the tables are one chain of 1057. -/
theorem bootstrap_eq (c : Context) : bootstrap p c = (bootstrapRun p c 1057).1 := by
  unfold bootstrap
  rw [bootstrapSubkeys_eq_foldl, bootstrapTables_eq_foldl, ← foldl_range_add]
  rfl

section Run

variable (c : Context)

theorem bootstrapRun_succ (m : Nat) :
    bootstrapRun p c (m + 1) = bootstrapStep p (bootstrapRun p c m) m := by
  simp [bootstrapRun, List.range_succ]

/-- The chain: each encryption takes the output of the one before. -/
theorem bootstrapRun_succ_block (m : Nat) : (bootstrapRun p c (m + 1)).2 =
    encryptBlock p.f (bootstrapRun p c m).1 (bootstrapRun p c m).2 := by
  rw [bootstrapRun_succ, bootstrapStep]

theorem bootstrapRun_succ_context (m : Nat) : (bootstrapRun p c (m + 1)).1 =
    writePair (bootstrapRun p c m).1 m (bootstrapRun p c (m + 1)).2 := by
  rw [bootstrapRun_succ_block, bootstrapRun_succ, bootstrapStep]

/-- The loop's invariant: after `m` encryptions every pair below `m` holds the output of its own encryption,
and the other entries are as they were. -/
theorem contextEntry_bootstrapRun (m : Nat) {q : Nat} (hq : q < 2114) :
    contextEntry (bootstrapRun p c m).1 q =
      if q / 2 < m then halfAt (bootstrapRun p c (q / 2 + 1)).2 q else contextEntry c q := by
  induction m with
  | zero => rfl
  | succ m ih =>
    rw [bootstrapRun_succ_context, contextEntry_writePair _ _ _ hq, ih]
    by_cases hm : q / 2 = m
    · rw [if_pos hm, if_pos (by omega), hm]
    · have hlt : q / 2 < m + 1 ↔ q / 2 < m := by omega
      simp only [hm, hlt, if_false]

/-- A pair of the finished context is the output of its own encryption. -/
theorem bootstrapPair_bootstrap {j : Nat} (hj : j < 1057) :
    bootstrapPair (bootstrap p c) j = (bootstrapRun p c (j + 1)).2 := by
  have hL : (2 * j) / 2 = j := by omega
  have hR : (2 * j + 1) / 2 = j := by omega
  have hLmod : (2 * j) % 2 = 0 := by omega
  have hRmod : (2 * j + 1) % 2 ≠ 0 := by omega
  rw [bootstrapPair_eq, bootstrap_eq, contextEntry_bootstrapRun p c _ (by omega),
    contextEntry_bootstrapRun p c _ (by omega), hL, hR, if_pos hj, if_pos hj, halfAt, halfAt,
    if_pos hLmod, if_neg hRmod]

/-- What encryption `j` reads, seen from the finished context. -/
theorem bootstrapReads_bootstrap (j : Nat) :
    bootstrapReads c (bootstrap p c) j = (bootstrapRun p c j).1 := by
  refine context_ext_entries fun q hq => ?_
  rw [contextEntry_bootstrapReads _ _ _ hq, bootstrap_eq, contextEntry_bootstrapRun p c _ hq,
    contextEntry_bootstrapRun p c _ hq, if_pos (show q / 2 < 1057 by omega)]

end Run

/-- Settles O53, by the invariant of the bootstrap's loop: encryption `j + 1` takes pair `j` and reads the
context that the pairs before it left. -/
theorem bootstrapChainFillsTheContext : Obligations.BootstrapChainFillsTheContext := by
  intro p key n c0 c
  have hc : c = bootstrap p c0 := rfl
  refine ⟨fun i hi => seededContext_subkey p key n hi, fun _ _ _ _ => rfl, ?_, fun j hj => ?_⟩
  · exact (bootstrapPair_bootstrap p c0 (by omega)).trans (bootstrapRun_succ_block p c0 0)
  · calc bootstrapPair c (j + 1)
      _ = (bootstrapRun p c0 (j + 2)).2 := bootstrapPair_bootstrap p c0 (Nat.succ_lt_succ hj)
      _ = encryptBlock p.f (bootstrapRun p c0 (j + 1)).1 (bootstrapRun p c0 (j + 1)).2 :=
        bootstrapRun_succ_block p c0 (j + 1)
      _ = encryptBlock p.f (bootstrapReads c0 c (j + 1)) (bootstrapPair c j) := by
        rw [hc, bootstrapReads_bootstrap, bootstrapPair_bootstrap p c0 (by omega)]

end Sys2Proof.Machine

/-! The block transform (41_block_transform.md): EncryptBlock and DecryptBlock as one cipher over a sequence of
subkeys, its inverse, its recurrence and its linear case; and the corner cases of F_ALT8. -/

namespace Sys2Proof.Machine

open Sys2Proof.Safety

/-! ### Both directions as one cipher over a sequence of subkeys (41_block_transform.md R109 to R111) -/

section Cipher

variable (f : Word → Word) (k : Nat → Word)

/-- The first `n` rounds with the subkeys `k 0`, ..., `k (n - 1)`. -/
def feistelRounds (n : Nat) (b : Block) : Block :=
  (List.range n).foldl (fun b r => feistelRound f (k r) b) b

/-- 64 rounds, the last swap undone, and the whitening with `k 64` and `k 65`. -/
def feistelCipher (b : Block) : Block :=
  whiten (k 65) (k 64) (swapHalves (feistelRounds f k 64 b))

theorem feistelRounds_zero (b : Block) : feistelRounds f k 0 b = b := rfl

/-- The last round taken off. -/
theorem feistelRounds_succ (n : Nat) (b : Block) :
    feistelRounds f k (n + 1) b = feistelRound f (k n) (feistelRounds f k n b) := by
  simp [feistelRounds, List.range_succ]

/-- The first round taken off. -/
theorem feistelRounds_succ_first (n : Nat) (b : Block) :
    feistelRounds f k (n + 1) b = feistelRounds f (fun r => k (r + 1)) n (feistelRound f (k 0) b) := by
  simp [feistelRounds, List.range_succ_eq_map, List.foldl_map]

/-- The cipher uses the subkeys 0 to 65 and no others. -/
theorem feistelCipher_congr {k k' : Nat → Word} (h : ∀ i, i < 66 → k i = k' i) (b : Block) :
    feistelCipher f k b = feistelCipher f k' b := by
  have hrounds : feistelRounds f k 64 b = feistelRounds f k' 64 b :=
    foldl_range_congr _ _ fun _ r hr => by rw [h r (by omega)]
  rw [feistelCipher, feistelCipher, hrounds, h 65 (by omega), h 64 (by omega)]

end Cipher

theorem encryptBlock_eq_cipher (f : Tables → Word → Word) (c : Context) (b : Block) :
    encryptBlock f c b = feistelCipher (f c.S) (subkey c.P) b := by
  unfold encryptBlock
  rfl

/-- DecryptBlock takes the subkeys from the other end, those of the whitening included. -/
theorem decryptBlock_eq_cipher (f : Tables → Word → Word) (c : Context) (b : Block) :
    decryptBlock f c b = feistelCipher (f c.S) (fun i => subkey c.P (65 - i)) b := by
  unfold decryptBlock
  rfl

/-! ### The inverse (41_block_transform.md R112) -/

section Inverse

variable (f : Word → Word) (k : Nat → Word)

/-- A round on a whitened block takes off the outer whitening key and the round before it, and leaves the
block before that round whitened with the next two keys down: with `kl` gone the left half is the word the
inner round put through `f`, so the outer round adds the same mask again. -/
theorem feistelRound_whiten_feistelRound (kl kr kn : Word) (b : Block) :
    feistelRound f kl (whiten kl kr (swapHalves (feistelRound f kn b))) =
      whiten kr kn (swapHalves b) := by
  simp [feistelRound, whiten, swapHalves, BitVec.xor_assoc]

theorem whiten_swapHalves_whiten (k0 k1 : Word) (b : Block) :
    whiten k0 k1 (swapHalves (whiten k1 k0 (swapHalves b))) = b := by
  simp [whiten, swapHalves]

/-- `n` rounds with the subkeys from `k (n + 1)` down undo `n` rounds, which the whitening with `k (n + 1)` and
`k n` follows, and leave the whitening with `k 1` and `k 0`. -/
theorem feistelRounds_reversed (n : Nat) (b : Block) :
    feistelRounds f (fun r => k (n + 1 - r)) n
        (whiten (k (n + 1)) (k n) (swapHalves (feistelRounds f k n b))) =
      whiten (k 1) (k 0) (swapHalves b) := by
  induction n with
  | zero => rfl
  | succ n ih =>
    rw [feistelRounds_succ_first, feistelRounds_succ, Nat.sub_zero, feistelRound_whiten_feistelRound]
    simpa only [Nat.add_sub_add_right] using ih

/-- The cipher with its 66 subkeys in reverse is its inverse. -/
theorem feistelCipher_reversed (b : Block) :
    feistelCipher f (fun i => k (65 - i)) (feistelCipher f k b) = b :=
  calc feistelCipher f (fun i => k (65 - i)) (feistelCipher f k b)
    _ = whiten (k 0) (k 1) (swapHalves (whiten (k 1) (k 0) (swapHalves b))) :=
      congrArg (fun x => whiten (k 0) (k 1) (swapHalves x)) (feistelRounds_reversed f k 64 b)
    _ = b := whiten_swapHalves_whiten (k 0) (k 1) b

end Inverse

theorem decryptBlock_encryptBlock (f : Tables → Word → Word) (c : Context) (b : Block) :
    decryptBlock f c (encryptBlock f c b) = b := by
  rw [decryptBlock_eq_cipher, encryptBlock_eq_cipher, feistelCipher_reversed]

/-- Reversing the subkeys twice gives them back in the range the cipher uses. -/
theorem encryptBlock_decryptBlock (f : Tables → Word → Word) (c : Context) (b : Block) :
    encryptBlock f c (decryptBlock f c b) = b := by
  have htwice : ∀ i, i < 66 → subkey c.P i = subkey c.P (65 - (65 - i)) := fun i hi => by
    rw [Nat.sub_sub_self (by omega)]
  rw [decryptBlock_eq_cipher, encryptBlock_eq_cipher, feistelCipher_congr _ htwice,
    feistelCipher_reversed _ fun i => subkey c.P (65 - i)]

/-- Settles O45: each round of one direction takes off the last round of the other. -/
theorem decryptInvertsEncrypt : Obligations.DecryptInvertsEncrypt :=
  fun f c b => ⟨decryptBlock_encryptBlock f c b, encryptBlock_decryptBlock f c b⟩

/-! ### The subkeys reversed (41_block_transform.md R111) -/

theorem subkey_reversedSubkeys (P : Subkeys) {i : Nat} (hi : i < 66) :
    subkey (reversedSubkeys P) i = subkey P (65 - i) := by
  rw [subkey_of_lt _ hi, reversedSubkeys, Vector.getElem_ofFn]

/-- Settles O46: both directions are the one cipher, and it meets equal subkeys. -/
theorem decryptIsEncryptWithReversedSubkeys : Obligations.DecryptIsEncryptWithReversedSubkeys := by
  intro f c b
  refine ⟨fun i hi => subkey_reversedSubkeys c.P hi, ?_⟩
  rw [decryptBlock_eq_cipher, encryptBlock_eq_cipher]
  exact feistelCipher_congr _ (fun i hi => (subkey_reversedSubkeys c.P hi).symm) b

/-! ### The recurrence (41_block_transform.md R119) -/

theorem feistelRounds_eq_recurrence (f : Word → Word) (P : Subkeys) (b : Block) (r : Nat) :
    feistelRounds f (subkey P) r b = { L := (recurrence f P b r).1, R := (recurrence f P b r).2 } := by
  induction r with
  | zero => rfl
  | succ r ih => rw [feistelRounds_succ, ih, feistelRound, recurrence]

/-- Settles O47, by induction over the rounds. -/
theorem encryptFollowsTheRecurrence : Obligations.EncryptFollowsTheRecurrence := by
  intro f c b
  refine ⟨fun r _ => feistelRounds_eq_recurrence (f c.S) c.P b r, ?_⟩
  rw [encryptBlock_eq_cipher, feistelCipher, feistelRounds_eq_recurrence, swapHalves, whiten]

/-! ### F_ALT8 (41_block_transform.md R107, R108) -/

/-- How F_ALT8 combines the eight entries its lanes select. -/
def combineEntries (s : Fin 8 → Word) : Word :=
  ((((((s 0 + s 1) ^^^ s 2) + s 3) ^^^ s 4) + s 5) ^^^ s 6) + s 7

theorem fAlt8_eq_combineEntries (S : Tables) (x : Word) :
    fAlt8 S x = combineEntries fun t => entry S t (indexLane x t) := rfl

theorem entry_replicate (v : Word) (t : Fin 8) (e : BitVec 8) :
    entry (Vector.replicate 8 (Vector.replicate 256 v)) t e = v := by
  simp [entry, Vector.get_eq_getElem]

theorem entry_ofFn (g : Fin 8 → Fin 256 → Word) (t : Fin 8) (e : BitVec 8) :
    entry (Vector.ofFn fun t => Vector.ofFn fun e => g t e) t e = g t e.toFin := by
  simp only [entry, Vector.get_eq_getElem, Vector.getElem_ofFn]
  rfl

theorem fAlt8_replicate (v x : Word) :
    fAlt8 (Vector.replicate 8 (Vector.replicate 256 v)) x = combineEntries fun _ => v := by
  simp only [fAlt8_eq_combineEntries, entry_replicate]

theorem fAlt8_of_zero_tables (x : Word) : fAlt8 (Vector.replicate 8 (Vector.replicate 256 0)) x = 0 :=
  fAlt8_replicate 0 x

/-- Zero is neutral in every step of the combination, so a single entry comes through. -/
theorem combineEntries_single (t : Fin 8) (v : Word) : combineEntries (fun u => if u = t then v else 0) = v := by
  fin_cases t <;> simp [combineEntries]

/-- The eight lanes hold all 64 bits. -/
theorem eq_of_indexLane_eq {x y : Word} (h : ∀ t, indexLane x t = indexLane y t) : x = y := by
  refine BitVec.eq_of_getLsbD_eq fun i hi => ?_
  have hbit : 8 * (7 - (7 - i / 8)) + i % 8 = i := by omega
  have hlane := congrArg (fun l => l.getLsbD (i % 8)) (h ⟨7 - i / 8, by omega⟩)
  simpa [indexLane, BitVec.getLsbD_extractLsb', hbit, Nat.mod_lt] using hlane

/-- The tables with a 1 in table `t` at index `a` and 0 everywhere else. -/
def probeTables (t : Fin 8) (a : BitVec 8) : Tables :=
  Vector.ofFn fun u => Vector.ofFn fun e => if u = t then if e = a.toFin then 1 else 0 else 0

/-- Under the probe of lane `t` F_ALT8 tells whether that lane is `a`. -/
theorem fAlt8_probeTables (t : Fin 8) (a : BitVec 8) (x : Word) :
    fAlt8 (probeTables t a) x = if indexLane x t = a then 1 else 0 := by
  have hentries : (fun u => entry (probeTables t a) u (indexLane x u)) =
      fun u => if u = t then if indexLane x t = a then (1 : Word) else 0 else 0 := by
    funext u
    by_cases hu : u = t
    · simp [probeTables, entry_ofFn, hu, ← BitVec.toFin_inj]
    · simp [probeTables, entry_ofFn, hu]
  rw [fAlt8_eq_combineEntries, hentries, combineEntries_single]

/-- Arguments that differ in one lane are told apart by the probe of that lane. -/
theorem exists_fAlt8_ne (t : Fin 8) {x y : Word} (hne : indexLane x t ≠ indexLane y t) :
    ∃ S : Tables, fAlt8 S x ≠ fAlt8 S y := by
  refine ⟨probeTables t (indexLane x t), ?_⟩
  rw [fAlt8_probeTables, fAlt8_probeTables, if_pos rfl, if_neg hne.symm]
  decide

/-- Settles O44: constant tables make the lanes irrelevant, and a probe of one lane reads it back. -/
theorem roundFunctionCornerCases : Obligations.RoundFunctionCornerCases := by
  refine ⟨fun x => ?ones, fAlt8_of_zero_tables, ?worked, fun t x y hne hothers => ?lanes⟩
  case ones =>
    rw [fAlt8_replicate]
    decide
  case worked =>
    simp only [fAlt8_eq_combineEntries, entry_ofFn fun t e => BitVec.ofNat 64 (t.val * 0x100 + e.val)]
    decide
  case lanes =>
    refine exists_fAlt8_ne t fun hlane => hne (eq_of_indexLane_eq fun u => ?_)
    by_cases hu : u = t
    · rw [hu, hlane]
    · exact hothers u hu

/-! ### The linear case (41_block_transform.md R118) -/

theorem xorSubkeys_range_succ (P : Subkeys) (g : Nat → Nat) (m : Nat) :
    xorSubkeys P ((List.range (m + 1)).map g) = xorSubkeys P ((List.range m).map g) ^^^ subkey P (g m) := by
  simp [xorSubkeys, List.range_succ]

/-- With F = 0 two rounds bring each half back to its side: the left half has met the even subkeys, the right
half the odd ones. -/
theorem feistelRounds_of_zero {f : Word → Word} (hf : ∀ x, f x = 0) (P : Subkeys) (b : Block) (m : Nat) :
    feistelRounds f (subkey P) (2 * m) b =
      { L := b.L ^^^ xorSubkeys P ((List.range m).map fun i => 2 * i)
        R := b.R ^^^ xorSubkeys P ((List.range m).map fun i => 2 * i + 1) } := by
  induction m with
  | zero => simp [feistelRounds_zero, xorSubkeys]
  | succ m ih =>
    rw [Nat.mul_succ, feistelRounds_succ, feistelRounds_succ, ih, xorSubkeys_range_succ, xorSubkeys_range_succ]
    simp [feistelRound, hf, BitVec.xor_assoc]

theorem encryptBlock_of_zero {f : Tables → Word → Word} {c : Context} (hf : ∀ x, f c.S x = 0) (b : Block) :
    encryptBlock f c b =
      { L := b.R ^^^ xorSubkeys c.P ((List.range 32).map fun i => 2 * i + 1) ^^^ subkey c.P 65
        R := b.L ^^^ xorSubkeys c.P ((List.range 32).map fun i => 2 * i) ^^^ subkey c.P 64 } := by
  rw [encryptBlock_eq_cipher, feistelCipher, feistelRounds_of_zero hf c.P b 32, swapHalves, whiten]

/-- Settles O48, by induction over pairs of rounds; the worked example is a case of the first clause. -/
theorem linearCaseOfEncrypt : Obligations.LinearCaseOfEncrypt := by
  refine ⟨fun _ _ b hf => encryptBlock_of_zero hf b, fAlt8_of_zero_tables, ?_⟩
  rw [encryptBlock_of_zero fun _ => rfl]
  decide

end Sys2Proof.Machine

/-! The error record (60_exceptions.md): the accesses the window rejects, what each of the five errors records, and
that only reset clears the record. -/

namespace Sys2Proof.Machine

open Sys2Proof.Safety

variable {s t : State}

/-! ### Recording an error (60_exceptions.md R138) -/

theorem raiseError_eq_recorded (e : ErrorCode) (s : State) : raiseError e s = recorded (errorBits e) s := rfl

@[simp] theorem recorded_err (code : BitVec 4) (s : State) : (recorded code s).err = true := by
  unfold recorded
  split
  · assumption
  · rfl

@[simp] theorem recorded_errcode (code : BitVec 4) (s : State) :
    (recorded code s).errcode = if s.err then s.errcode else code := by
  unfold recorded
  split <;> rfl

/-- Settles O27, by the two cases of the first error and a later one. -/
theorem raiseRecordsTheFirstError : Obligations.RaiseRecordsTheFirstError := fun _ =>
  ⟨fun hfirst => ⟨raiseError_first _ hfirst, raiseError_first _ hfirst, raiseError_first _ hfirst,
      raiseError_first _ hfirst, raiseError_first _ hfirst⟩,
    fun hlater e => raiseError_of_err e hlater⟩

/-! ### Commands refused on an idle block (60_exceptions.md R143, R144) -/

/-- Settles O8: outside 1..528 the length check of INIT fails. -/
theorem initOutOfRangeIsRefused : Obligations.InitOutOfRangeIsRefused := by
  intro s hidle hlen
  refine exec_init_of_badKeylen hidle ?_
  rw [keyLengthOk_iff]
  omega

theorem acceptBlock_unkeyed (op : Block → Pending) (h : s.keyed = false) :
    acceptBlock op s = raiseError .notKeyed s := by
  simp [acceptBlock, h]

/-- Settles O11: both block commands are `acceptBlock`, which an unkeyed block refuses. -/
theorem unkeyedBlockCommandsAreRefused : Obligations.UnkeyedBlockCommandsAreRefused := by
  intro s hidle hunkeyed
  have hrefused (op : Block → Pending) : unlessBusy s (acceptBlock op) = recorded 3 s := by
    rw [unlessBusy_idle _ hidle, acceptBlock_unkeyed op hunkeyed, raiseError_eq_recorded, errorBits]
  exact ⟨congrArg Host.Outcome.next (hrefused _), congrArg Host.Outcome.next (hrefused _)⟩

/-! ### Illegal command words (30_encoding.md R74, 60_exceptions.md R142) -/

theorem rsvdField_eq_zero_iff (c : Word) : rsvdField c = 0 ↔ c >>> 4 = 0 := by
  have hwidth : (rsvdField c).toNat = (c >>> 4).toNat := by
    simp only [rsvdField, BitVec.extractLsb'_toNat, BitVec.toNat_ushiftRight, Nat.shiftRight_eq_div_pow]
    omega
  rw [← BitVec.toNat_inj, hwidth, ← BitVec.toNat_inj]
  rfl

theorem opField_toNat (c : Word) : (opField c).toNat = c.toNat % 16 := by
  simp [opField]

theorem decode_of_illegal {c : Word} (h : c >>> 4 ≠ 0 ∨ 4 ≤ c.toNat % 16) : decode c = .error .illegal := by
  unfold decode
  split
  next => rfl
  next hrsvd =>
    have hop : 4 ≤ (opField c).toNat := by
      rw [opField_toNat]
      exact h.resolve_left (not_not.mpr ((rsvdField_eq_zero_iff c).mp (not_not.mp hrsvd)))
    split
    next => omega
    next => omega
    next => omega
    next => omega
    next => rfl

theorem writeEffect_of_illegal {c : Word} (size : AccessSize) (h : decode c = .error .illegal)
    (hidle : s.busy = false) : writeEffect 0x000#12 size c s = .next (recorded 1 s) := by
  simp only [writeEffect, slotAt_cmd, command, h, unlessBusy_idle _ hidle]
  rfl

/-- Settles O5: the write passes the bus and the busy check, and the decoder refuses its word. -/
theorem illegalWordIsRecorded : Obligations.IllegalWordIsRecorded := by
  intro s rest c hnext hidle hillegal
  have hstep := step_write_of_accepted (off := 0x000#12) hnext accepted_cmd
  have hidle' : (answered s rest (.done false)).busy = false := hidle
  rwa [if_neg (by simp [hidle]), writeEffect_of_illegal .b8 (decode_of_illegal hillegal) hidle'] at hstep

/-! ### The accesses the window rejects (60_exceptions.md R139) -/

/-- A 1-byte access is accepted in the KEY window and nowhere else, and nothing there is reserved. -/
theorem accepted_b1_eq_false_iff (off : BitVec 12) : accepted off .b1 = false ↔ rejectedAccess off .b1 := by
  simp only [accepted, rejectedAccess, reservedOffset, byteCount, reduceCtorEq, false_or, true_and, false_and,
    Bool.and_eq_false_iff, decide_eq_false_iff_not]
  constructor
  · intro hout
    exact .inl (by omega)
  · rintro (hout | ⟨j, hj, hres⟩) <;> omega

/-- An 8-byte access is accepted at the aligned offsets that are not reserved; the seven bytes after an aligned
offset are reserved exactly when it is. -/
theorem accepted_b8_eq_false_iff (off : BitVec 12) : accepted off .b8 = false ↔ rejectedAccess off .b8 := by
  simp only [accepted, rejectedAccess, reservedOffset, byteCount, reduceCtorEq, false_or, true_and, false_and,
    Bool.and_eq_false_iff, Bool.or_eq_false_iff, decide_eq_false_iff_not, BitVec.toNat_eq, BitVec.toNat_ofNat,
    Nat.reducePow, Nat.reduceMod, Nat.zero_mod]
  constructor
  · intro hout
    by_cases halign : off.toNat % 8 = 0
    · exact .inr ⟨0, by omega, by omega⟩
    · exact .inl halign
  · rintro (halign | ⟨j, hj, hres⟩) <;> omega

theorem accepted_eq_false_iff (off : BitVec 12) (size : AccessSize) :
    accepted off size = false ↔ rejectedAccess off size := by
  cases size with
  | b1 => exact accepted_b1_eq_false_iff off
  | b2 => exact iff_of_true rfl (.inl rfl)
  | b4 => exact iff_of_true rfl (.inr (.inl rfl))
  | b8 => exact accepted_b8_eq_false_iff off

theorem accepted_of_not_rejected {off : BitVec 12} {size : AccessSize} (h : ¬rejectedAccess off size) :
    accepted off size = true :=
  eq_true_of_ne_false fun hf => h ((accepted_eq_false_iff off size).mp hf)

/-! ### One step that takes a rejected access, or any access while BUSY = 1 -/

theorem step_of_host {a : Access} {rest : List Turn} (h : s.agenda = .host a :: rest) :
    step s = hostTurn a (s.withAgenda rest) := by
  simp only [step, h]

theorem step_of_read {off : BitVec 12} {size : AccessSize} {rest : List Turn}
    (h : s.agenda = .host (.read off size) :: rest) :
    step s = .next ((hostRead off size (s.withAgenda rest)).1.withReply
      (hostRead off size (s.withAgenda rest)).2) :=
  step_of_host h

theorem step_read_of_rejected {off : BitVec 12} {size : AccessSize} {rest : List Turn}
    (h : s.agenda = .host (.read off size) :: rest) (hr : accepted off size = false) :
    step s = .next (recorded 5 (answered s rest (.data 0 Config.busErrResp))) := by
  simp only [step_of_read h, hostRead, hr, Bool.false_eq_true, if_false, ← raiseError_withReply]
  rfl

theorem step_write_of_rejected {off : BitVec 12} {size : AccessSize} {v : Word} {rest : List Turn}
    (h : s.agenda = .host (.write off size v) :: rest) (hr : accepted off size = false) :
    step s = .next (recorded 5 (answered s rest (.done Config.busErrResp))) := by
  simp only [step_of_host h, hostTurn, hostWrite, writeReply, hr, Bool.false_eq_true, if_false, Bool.not_false,
    Bool.true_and]
  rfl

/-- An accepted read answers and leaves the error record alone, whether or not it draws a free value. -/
theorem step_read_of_accepted_keeps_error {off : BitVec 12} {size : AccessSize} {rest : List Turn}
    (h : s.agenda = .host (.read off size) :: rest) (ha : accepted off size = true) :
    ∃ t, step s = .next t ∧ t.err = s.err ∧ t.errcode = s.errcode := by
  refine ⟨_, step_of_read h, ?_⟩
  obtain ⟨_, _, hread⟩ | ⟨_, _, hread⟩ | ⟨hr, _⟩ := hostRead_cases off size (s.withAgenda rest)
  · rw [hread]
    exact ⟨rfl, rfl⟩
  · rw [hread]
    exact ⟨rfl, rfl⟩
  · exact absurd (ha.symm.trans hr) (by decide)

/-- Settles O24: the window's check is the list of R139, and its failure comes before every other. -/
theorem rejectedAccessesRecordBusError : Obligations.RejectedAccessesRecordBusError := by
  refine ⟨accepted_eq_false_iff, fun s rest off size hrej => ?_⟩
  have hr := (accepted_eq_false_iff off size).mpr hrej
  exact ⟨fun h => step_read_of_rejected h hr, fun v h => step_write_of_rejected h hr⟩

/-- Settles O25: an accepted write meets the busy check before its effect, and a read meets none. -/
theorem writesWhileBusyAreRefused : Obligations.WritesWhileBusyAreRefused := by
  intro s rest off size hbusy
  refine ⟨fun v htaken h => ?_, fun h => ?_⟩
  · rw [step_write_of_accepted h (accepted_of_not_rejected htaken), if_pos hbusy]
  by_cases hrej : rejectedAccess off size
  · have hstep := step_read_of_rejected h ((accepted_eq_false_iff off size).mpr hrej)
    exact ⟨_, hstep, fun htaken => absurd hrej htaken, fun _ => ⟨recorded_err _ _, recorded_errcode _ _⟩⟩
  · obtain ⟨t, hstep, hkept⟩ := step_read_of_accepted_keeps_error h (accepted_of_not_rejected hrej)
    exact ⟨t, hstep, fun _ => hkept, fun h => absurd h hrej⟩

/-! ### The first error stays (60_exceptions.md R137) -/

/-- The error record of `t` is the error that stands in `s`. -/
def KeepsError (s t : State) : Prop := t.err = true ∧ t.errcode = s.errcode

theorem keepsError_raiseError (e : ErrorCode) (h : s.err = true) : KeepsError s (raiseError e s) := by
  rw [raiseError_of_err e h]
  exact ⟨h, rfl⟩

theorem exec_keeps_error {i : Instr} (h : s.err = true) (hx : exec i s = .next t) : KeepsError s t := by
  obtain ⟨e, hi⟩ | ⟨_, _, hi⟩ | ⟨_, _, _, hi⟩ | ⟨_, _, _, hi⟩ | ⟨_, _, _, hi⟩ := exec_cases i s <;>
    cases hi.symm.trans hx
  · exact keepsError_raiseError e h
  all_goals exact ⟨h, rfl⟩

theorem hostWrite_keeps_error {off : BitVec 12} {size : AccessSize} {v : Word} (h : s.err = true)
    (hx : hostWrite off size v s = .next t) : KeepsError s t := by
  obtain ⟨e, hw⟩ | ⟨_, _, hw | ⟨_, hw⟩ | ⟨_, hw⟩ | ⟨_, hw⟩ | ⟨_, hw⟩ | ⟨_, i, _, hw⟩⟩ :=
    hostWrite_cases off size v s
  case inr.inr.inr.inr.inr.inr => exact exec_keeps_error h (hw.symm.trans hx)
  all_goals cases hw.symm.trans hx
  case inl => exact keepsError_raiseError e h
  all_goals exact ⟨h, rfl⟩

theorem hostRead_keeps_error (off : BitVec 12) (size : AccessSize) (h : s.err = true) :
    KeepsError s (hostRead off size s).1 := by
  obtain ⟨_, _, hr⟩ | ⟨_, _, hr⟩ | ⟨_, hr⟩ := hostRead_cases off size s <;> rw [hr]
  · exact ⟨h, rfl⟩
  · exact ⟨h, rfl⟩
  · exact keepsError_raiseError .busError h

theorem hostTurn_keeps_error {a : Access} (h : s.err = true) (hx : hostTurn a s = .next t) : KeepsError s t := by
  cases a with
  | read off size =>
    cases hx
    exact hostRead_keeps_error off size h
  | write off size v => exact hostWrite_keeps_error (s := s.withReply _) h hx

theorem engineTurn_keeps_error (p : Params) (h : s.err = true) : KeepsError s (engineTurn p s) := by
  cases hb : s.busy with
  | false =>
    rw [engineTurn_idle p hb]
    exact ⟨h, rfl⟩
  | true =>
    obtain ⟨_, _, herr, hcode, _⟩ := complete_frame p s
    rw [engineTurn_busy p hb]
    exact ⟨herr.trans h, hcode⟩

theorem step_keeps_error (hx : step s = .next t) (h : s.err = true) (hr : ¬∃ rest, s.agenda = .reset :: rest) :
    KeepsError s t := by
  obtain ⟨_, hs⟩ | ⟨a, rest, _, hs⟩ | ⟨rest, _, hs⟩ | ⟨rest, ha, _⟩ := step_cases s
  · cases hs.symm.trans hx
    exact engineTurn_keeps_error _ h
  · exact hostTurn_keeps_error (s := s.withAgenda rest) h (hs.symm.trans hx)
  · cases hs.symm.trans hx
    exact engineTurn_keeps_error (s := s.withAgenda rest) _ h
  · exact absurd ⟨rest, ha⟩ hr

theorem step_of_reset {rest : List Turn} (h : s.agenda = .reset :: rest) :
    step s = .next (applyReset (s.withAgenda rest)) := by
  simp only [step, h]

/-- Settles O28: a later error is not recorded, reset clears the record, and STATUS ignores a write. -/
theorem errorRecordIsSticky : Obligations.ErrorRecordIsSticky := by
  refine ⟨fun _ _ => step_keeps_error, fun s rest h => ⟨_, step_of_reset h, rfl, rfl⟩,
    fun s rest v h hidle => ?_⟩
  rw [step_write_of_accepted (off := 0x008#12) h accepted_status, if_neg (by simp [hidle]), writeEffect_status]

end Sys2Proof.Machine

/-! Command words (30_encoding.md R70 to R75): the byte lanes of a WORD, the two fields of a command word, and that
decoding and encoding are inverse. -/

namespace Sys2Proof

open Sys2Proof.Machine

/-! ### Byte lanes (20_memory.md R46) -/

/-- A byte shifted in stands in lane 0. -/
theorem lane_shiftIn_zero (w : Word) (b : Byte) : lane (w <<< 8 ||| b.setWidth 64) 0 = b := by
  refine BitVec.eq_of_getLsbD_eq fun i hi => ?_
  have hi64 : i < 64 := by omega
  simp [lane, hi, hi64]

/-- A byte shifted in moves every other lane up by one. -/
theorem lane_shiftIn_succ (w : Word) (b : Byte) {j : Nat} (hj : j + 1 < 8) :
    lane (w <<< 8 ||| b.setWidth 64) (j + 1) = lane w j := by
  refine BitVec.eq_of_getLsbD_eq fun i hi => ?_
  have hlt : 8 * (j + 1) + i < 64 := by omega
  have hge : ¬8 * (j + 1) + i < 8 := by omega
  have hsub : 8 * (j + 1) + i - 8 = 8 * j + i := by omega
  have hb : b.getLsbD (8 * (j + 1) + i) = false := BitVec.getLsbD_of_ge _ _ (by omega)
  simp only [lane, BitVec.getLsbD_extractLsb', BitVec.getLsbD_or, BitVec.getLsbD_shiftLeft,
    BitVec.getLsbD_setWidth, hlt, hge, hsub, hb, decide_true, decide_false, Bool.not_false, Bool.true_and,
    Bool.and_false, Bool.or_false]

theorem lanes_eq (v : Word) :
    lanes v = [lane v 0, lane v 1, lane v 2, lane v 3, lane v 4, lane v 5, lane v 6, lane v 7] := rfl

/-- The eight lanes hold all of a WORD. -/
theorem eq_of_lane_eq {v w : Word} (h : ∀ j, j < 8 → lane v j = lane w j) : v = w :=
  eq_of_indexLane_eq fun t => h (7 - t.val) (by omega)

/-- Lane `j` of the word that bytes make is byte `j`. -/
theorem lane_ofLanes (bs : List Byte) {j : Nat} (hj : j < 8) : lane (ofLanes bs) j = bs.getD j 0 := by
  induction bs generalizing j with
  | nil => simp [ofLanes, lane]
  | cons b bs ih =>
    change lane (ofLanes bs <<< 8 ||| b.setWidth 64) j = _
    cases j with
    | zero => exact lane_shiftIn_zero _ b
    | succ j => rw [lane_shiftIn_succ _ b hj, ih (by omega), List.getD_cons_succ]

theorem ofLanes_lanes (v : Word) : ofLanes (lanes v) = v := by
  refine eq_of_lane_eq fun j hj => ?_
  rw [lane_ofLanes _ hj]
  simp [lanes, hj]

theorem lanes_ofLanes {bs : List Byte} (h : bs.length = 8) : lanes (ofLanes bs) = bs := by
  refine List.ext_getElem (by simp [lanes, h]) fun j _ hj => ?_
  simp [lanes, lane_ofLanes _ (h ▸ hj), hj]

/-! ### The fields of a command word (30_encoding.md R71) -/

theorem rsvdField_append_opField (c : Word) : rsvdField c ++ opField c = c :=
  (BitVec.extractLsb'_append_extractLsb'_eq_extractLsb' rfl).trans BitVec.extractLsb'_eq_self

/-- What the decoder checks: RSVD is 0 and OP is the command's. -/
theorem fields_of_decode {c : Word} {i : Instr} (h : decode c = .ok i) :
    rsvdField c = 0 ∧ opField c = opcode i := by
  unfold decode at h
  split at h
  next => cases h
  next hrsvd =>
    refine ⟨not_not.mp hrsvd, BitVec.eq_of_toNat_eq ?_⟩
    split at h <;> cases h <;> assumption

/-- Both fields of every command word are as 30_encoding.md R72 says. -/
theorem fields_of_encode (i : Instr) : Laws.EncodingFields.Statement i :=
  match i with
  | .nop => Laws.EncodingFields.nop
  | .init => Laws.EncodingFields.init
  | .encrypt => Laws.EncodingFields.encrypt
  | .decrypt => Laws.EncodingFields.decrypt

theorem decode_encode (i : Instr) : decode (encode i) = .ok i := by
  obtain ⟨hrsvd, hop, -⟩ := fields_of_encode i
  simp only [decode, hrsvd, hop, ne_eq, not_true, if_false]
  cases i <;> rfl

/-- A word decodes to `i` exactly when it is the command word of `i`. -/
theorem decode_eq_ok_iff {c : Word} {i : Instr} : decode c = .ok i ↔ c = encode i := by
  constructor
  · intro h
    obtain ⟨hrsvd, hop⟩ := fields_of_decode h
    rw [← rsvdField_append_opField c, hrsvd, hop, encode]
  · rintro rfl
    exact decode_encode i

/-- Settles O3: each legal word is a command's, and each other sample has a field out of range. -/
theorem sampleWordsDecode : Obligations.SampleWordsDecode :=
  ⟨decode_encode .nop, decode_encode .init, decode_encode .encrypt, decode_encode .decrypt,
    decode_of_illegal (by decide), decode_of_illegal (by decide), decode_of_illegal (by decide),
    decode_of_illegal (by decide)⟩

/-! ### The legal words and the illegal ones (30_encoding.md R72, R74, R75) -/

/-- RSVD = 0 and OP below 4 leave four words. -/
theorem exists_eq_encode {c : Word} (hrsvd : c >>> 4 = 0) (hop : c.toNat % 16 < 4) : ∃ i, c = encode i := by
  have hsmall : c.toNat < 4 := by
    have hshift : c.toNat / 16 = 0 := by
      simpa [Nat.shiftRight_eq_div_pow] using congrArg BitVec.toNat hrsvd
    omega
  obtain h | h | h | h : c.toNat = 0 ∨ c.toNat = 1 ∨ c.toNat = 2 ∨ c.toNat = 3 := by omega
  · exact ⟨.nop, BitVec.eq_of_toNat_eq h⟩
  · exact ⟨.init, BitVec.eq_of_toNat_eq h⟩
  · exact ⟨.encrypt, BitVec.eq_of_toNat_eq h⟩
  · exact ⟨.decrypt, BitVec.eq_of_toNat_eq h⟩

theorem decode_eq_illegal_iff {c : Word} : decode c = .error .illegal ↔ c >>> 4 ≠ 0 ∨ 4 ≤ c.toNat % 16 := by
  refine ⟨fun hillegal => ?_, decode_of_illegal⟩
  by_contra hlegal
  rw [not_or, not_not, not_le] at hlegal
  obtain ⟨i, rfl⟩ := exists_eq_encode hlegal.1 hlegal.2
  exact absurd ((decode_encode i).symm.trans hillegal) nofun

/-- A WORD is all of a command, so none is too short. -/
theorem decode_ne_truncated (c : Word) : decode c ≠ .error .truncated := by
  by_cases h : c >>> 4 ≠ 0 ∨ 4 ≤ c.toNat % 16
  · rw [decode_of_illegal h]
    nofun
  · rw [not_or, not_not, not_le] at h
    obtain ⟨i, rfl⟩ := exists_eq_encode h.1 h.2
    rw [decode_encode]
    nofun

/-- Settles O2: a legal word is the one its command encodes to. -/
theorem exactlyFourWordsAreLegal : Obligations.ExactlyFourWordsAreLegal := fun c =>
  ⟨decode_eq_ok_iff, decode_eq_ok_iff, decode_eq_ok_iff, decode_eq_ok_iff, decode_eq_illegal_iff,
    decode_ne_truncated c⟩

/-! ### Commands as bytes (30_encoding.md R70) -/

theorem decodeBytes_lanes {c : Word} {i : Instr} (h : decode c = .ok i) (rest : List Byte) :
    decodeBytes (lanes c ++ rest) = .ok (i, rest) := by
  rw [lanes_eq]
  simp only [List.cons_append, List.nil_append, decodeBytes]
  rw [← lanes_eq, ofLanes_lanes, h]

/-- Bytes that decode are the lanes of a word that decodes, and the rest. -/
theorem lanes_of_decodeBytes {bs rest : List Byte} {i : Instr} (h : decodeBytes bs = .ok (i, rest)) :
    ∃ c, decode c = .ok i ∧ bs = lanes c ++ rest := by
  unfold decodeBytes at h
  split at h
  next b0 b1 b2 b3 b4 b5 b6 b7 tail =>
    split at h
    next hword =>
      cases h
      exact ⟨_, hword, by rw [lanes_ofLanes rfl]; rfl⟩
    next => cases h
  next => cases h

/-- Settles O1: eight bytes and the word they make determine each other, and so do a command and its word. -/
theorem decodeInvertsEncode : Obligations.DecodeInvertsEncode := by
  refine ⟨fun i rest _ => decodeBytes_lanes (decode_encode i) rest, fun bs i rest h => ?_⟩
  obtain ⟨c, hc, hbs⟩ := lanes_of_decodeBytes h
  rw [hbs, decode_eq_ok_iff.mp hc, encodeBytes]

end Sys2Proof

/-! The key buffer and the key words: the canonical form (log 14), the bytes a write to the KEY window stores
(20_memory.md R52), and the bytes a key word takes (40_key_schedule.md R88). -/

namespace Sys2Proof.Machine

open Sys2Proof.Safety

/-! ### The canonical form of the key buffer (log 14) -/

/-- What the canonical form says of a buffer that lists some byte. -/
theorem Memory.wfFrom_cons {x lo : Nat} {b : Byte} {rest : Memory} :
    Memory.wfFrom ((x, b) :: rest) lo = true ↔
      lo ≤ x ∧ x < keyEnd ∧ b ≠ 0#8 ∧ Memory.wfFrom rest (x + 1) = true := by
  simp [Memory.wfFrom, and_assoc]

theorem Memory.read_head (x : Nat) (b : Byte) (rest : Memory) : Memory.read ((x, b) :: rest) x = b := by
  simp [Memory.read]

theorem Memory.read_tail {x a : Nat} (b : Byte) (rest : Memory) (h : x ≠ a) :
    Memory.read ((x, b) :: rest) a = Memory.read rest a := by
  simp [Memory.read, h]

/-- A listed byte is not 0, so it is read in no buffer whose offsets all lie above it. -/
theorem Memory.le_of_reads_head {x lo y : Nat} {b : Byte} {rest m : Memory}
    (hcons : Memory.wfFrom ((x, b) :: rest) lo = true) (hm : Memory.wfFrom m y = true)
    (hread : m.read x = b) : y ≤ x := by
  obtain ⟨-, -, hb, -⟩ := Memory.wfFrom_cons.mp hcons
  by_contra hlt
  exact hb (hread ▸ Memory.read_below hm (by omega))

/-- A buffer that lists a byte does not read like the empty one. -/
theorem Memory.exists_read_ne_of_cons {x lo : Nat} {b : Byte} {rest : Memory}
    (h : Memory.wfFrom ((x, b) :: rest) lo = true) : Memory.read ((x, b) :: rest) x ≠ Memory.read [] x := by
  obtain ⟨-, -, hb, -⟩ := Memory.wfFrom_cons.mp h
  rwa [Memory.read_head, Memory.read_nil]

/-- Buffers in canonical form that read alike list the same bytes, one after another. -/
theorem Memory.eq_of_read_eq {m m' : Memory} {lo lo' : Nat} (h : Memory.wfFrom m lo = true)
    (h' : Memory.wfFrom m' lo' = true) (hread : ∀ a, m.read a = m'.read a) : m = m' := by
  induction m generalizing m' lo lo' with
  | nil =>
    cases m' with
    | nil => rfl
    | cons c' rest' => exact absurd (hread c'.1).symm (Memory.exists_read_ne_of_cons h')
  | cons c rest ih =>
    cases m' with
    | nil => exact absurd (hread c.1) (Memory.exists_read_ne_of_cons h)
    | cons c' rest' =>
      obtain ⟨x, b⟩ := c
      obtain ⟨y, b'⟩ := c'
      obtain ⟨-, hx, hb, hrest⟩ := Memory.wfFrom_cons.mp h
      obtain ⟨-, hy, hb', hrest'⟩ := Memory.wfFrom_cons.mp h'
      have hyx : y ≤ x := Memory.le_of_reads_head h
        (Memory.wfFrom_cons.mpr ⟨le_refl y, hy, hb', hrest'⟩) (hread x ▸ Memory.read_head x b rest)
      have hxy : x ≤ y := Memory.le_of_reads_head h'
        (Memory.wfFrom_cons.mpr ⟨le_refl x, hx, hb, hrest⟩) (hread y ▸ Memory.read_head y b' rest')
      obtain rfl : x = y := le_antisymm hxy hyx
      obtain rfl : b = b' := by simpa only [Memory.read_head] using hread x
      have htails : ∀ a, Memory.read rest a = Memory.read rest' a := by
        intro a
        by_cases ha : x = a
        · rw [Memory.read_below hrest (by omega), Memory.read_below hrest' (by omega)]
        · simpa only [Memory.read_tail b _ ha] using hread a
      rw [ih hrest hrest' htails]

/-- Settles O43, by induction along the two lists: their first offsets are equal because a listed byte is not 0. -/
theorem keyBufferFormIsCanonical : Obligations.KeyBufferFormIsCanonical :=
  fun _ _ h h' hread => Memory.eq_of_read_eq h h' hread

/-! ### Key words (40_key_schedule.md R88) -/

/-- Of `m` bytes shifted in one after another the byte taken at `k` stands `m - 1 - k` lanes up. -/
theorem lane_foldl_shiftIn (g : Nat → Byte) {m k : Nat} (hm : m ≤ 8) (hk : k < m) :
    lane ((List.range m).foldl (fun (d : Word) k => d <<< 8 ||| (g k).setWidth 64) 0) (m - 1 - k) = g k := by
  induction m with
  | zero => omega
  | succ m ih =>
    rw [List.range_succ, List.foldl_append, List.foldl_cons, List.foldl_nil]
    by_cases hlast : k = m
    · subst hlast
      rw [Nat.add_sub_cancel, Nat.sub_self, lane_shiftIn_zero]
    · have hup : m + 1 - 1 - k = m - 1 - k + 1 := by omega
      rw [hup, lane_shiftIn_succ _ _ (by omega), ih (by omega) (by omega)]

/-- Settles O50: the first byte shifted in ends as the most significant, and step 2 absorbs the words it forms. -/
theorem keyWordsTakeTheKeyCyclically : Obligations.KeyWordsTakeTheKeyCyclically :=
  ⟨fun key n i _ hk => lane_foldl_shiftIn (fun k => keyAt key ((8 * i + k) % n)) le_rfl hk,
    fun p key n c _ hi => absorbKey_subkey p key n c hi⟩

end Sys2Proof.Machine

/-! The four commands: what is accepted on an idle block (60_exceptions.md R141), what acceptance and completion
leave unchanged, and what a command brings about once it is completed. -/

namespace Sys2Proof.Machine

open Sys2Proof.Safety

variable {s : State}

/-! ### Acceptance on an idle block -/

/-- Settles O6: with the busy check passed NOP has no effect left. -/
theorem nopChangesNothing : Obligations.NopChangesNothing := fun s hidle => by
  rw [exec, execNop, unlessBusy_idle _ hidle, id]

/-- Settles O7: the length check of INIT passes. -/
theorem initIsAccepted : Obligations.InitIsAccepted := fun _ hidle hmin hmax =>
  exec_init_of_keyLengthOk hidle (keyLengthOk_iff.mpr ⟨hmin, hmax⟩)

theorem acceptBlock_keyed (op : Block → Pending) (h : s.keyed = true) :
    acceptBlock op s = s.withPending (op (blockOperand s)) := by
  simp [acceptBlock, h]

theorem exec_encrypt_of_keyed (hidle : s.busy = false) (hkeyed : s.keyed = true) :
    exec .encrypt s = .next (s.withPending (.encrypt (blockOperand s))) := by
  rw [exec, execEncrypt, unlessBusy_idle _ hidle, acceptBlock_keyed _ hkeyed]

theorem exec_decrypt_of_keyed (hidle : s.busy = false) (hkeyed : s.keyed = true) :
    exec .decrypt s = .next (s.withPending (.decrypt (blockOperand s))) := by
  rw [exec, execDecrypt, unlessBusy_idle _ hidle, acceptBlock_keyed _ hkeyed]

/-- Settles O9: the keyed block's operand is DATA_L and DATA_R. -/
theorem encryptIsAccepted : Obligations.EncryptIsAccepted := fun _ => exec_encrypt_of_keyed

/-- Settles O10: as O9. -/
theorem decryptIsAccepted : Obligations.DecryptIsAccepted := fun _ => exec_decrypt_of_keyed

/-- Settles O12: the busy check comes before every other of a command. -/
theorem commandsWhileBusyAreRefused : Obligations.CommandsWhileBusyAreRefused :=
  fun i _ hbusy => exec_busy i hbusy

/-! ### What acceptance leaves unchanged -/

/-- Settles O13: a command that is refused changes the error record alone, and one that is accepted changes
PENDING, BUSY and, for INIT, KEYED. -/
theorem acceptanceFrame : Obligations.AcceptanceFrame := by
  intro i s t ht
  obtain ⟨e, hx⟩ | ⟨-, -, hx⟩ | ⟨hi, -, -, hx⟩ | ⟨hi, -, -, hx⟩ | ⟨hi, -, -, hx⟩ := exec_cases i s <;>
    cases hx.symm.trans ht
  case inl => simp
  case inr.inl => simp
  all_goals simp [hi]

/-- The operands of INIT depend on the first LEN key bytes and on no other (40_key_schedule.md R86). -/
theorem keyBytes_congr {u : State} {n : Nat} (h : ∀ j, j < n → keyByte u j = keyByte s j) :
    keyBytes u n = keyBytes s n :=
  List.map_congr_left fun j hj => h j (List.mem_range.mp hj)

/-- Settles O19: both key buffers give the same operand record. -/
theorem initReadsOnlyTheKeyBytes : Obligations.InitReadsOnlyTheKeyBytes := by
  intro s m hidle hmin hmax hbytes
  have hk : keyLengthOk s.keylen.toNat = true := keyLengthOk_iff.mpr ⟨hmin, hmax⟩
  have hoperands : initOperands (s.withKey m) = initOperands s :=
    congrArg (Pending.init · s.keylen) (keyBytes_congr hbytes)
  have hu := exec_init_of_keyLengthOk (s := s.withKey m) hidle hk
  rw [hoperands] at hu
  exact ⟨_, _, exec_init_of_keyLengthOk hidle hk, hu, rfl⟩

/-! ### The engine's turn, wherever it comes from (10_state.md R38; log 2) -/

theorem step_of_no_turn (h : s.agenda = []) : step s = .next (engineTurn Config.params s) := by
  simp only [step, h]

/-- The engine's own turn on a busy block is a completion. -/
theorem step_completes {rest : List Turn} (hbusy : s.busy = true) (h : s.agenda = .engine :: rest) :
    step s = .next (complete Config.params (s.withAgenda rest)) := by
  have hbusy' : (s.withAgenda rest).busy = true := hbusy
  rw [step_of_engineTurn h, engineTurn_busy _ hbusy']

/-- On a busy block the engine's turn is a completion also when no turn is left. -/
theorem step_of_engineIsNext (hbusy : s.busy = true) (h : engineIsNext s) :
    ∃ rest, step s = .next (complete Config.params (s.withAgenda rest)) := by
  obtain hnil | ⟨rest, hrest⟩ := h
  · exact ⟨s.agenda, by rw [step_of_no_turn hnil, engineTurn_busy _ hbusy, State.withAgenda_self]⟩
  · exact ⟨rest, step_completes hbusy hrest⟩

/-- What INIT's completion writes besides the context does not depend on the context. -/
theorem withCtx_withKeyed_withIdle_frame (s : State) (c : Context) (k : Bool) :
    (((s.withCtx c).withKeyed k).withIdle).dataL = s.dataL ∧
    (((s.withCtx c).withKeyed k).withIdle).dataR = s.dataR ∧
    (((s.withCtx c).withKeyed k).withIdle).keyed = k := by
  simp

/-- A completion of INIT leaves the data registers alone and sets KEYED. -/
theorem complete_init_frame (p : Params) (h : ∃ k n, s.pending = some (.init k n)) :
    (complete p s).dataL = s.dataL ∧ (complete p s).dataR = s.dataR ∧ (complete p s).keyed = true := by
  obtain ⟨k, n, hp⟩ := h
  rw [complete_of_init p hp, completeInit_eq]
  exact withCtx_withKeyed_withIdle_frame s _ true

/-- Every other completion leaves the context and KEYED alone. -/
theorem complete_other_frame (p : Params) (h : ¬∃ k n, s.pending = some (.init k n)) :
    (complete p s).ctx = s.ctx ∧ (complete p s).keyed = s.keyed := by
  obtain ⟨-, hc⟩ | ⟨k, n, hp, -⟩ | ⟨b, -, hc⟩ | ⟨b, -, hc⟩ := complete_cases p s
  case inr.inl => exact absurd ⟨k, n, hp⟩ h
  all_goals simp [hc]

/-- Settles O18: the step is a completion, and `complete_frame` and its two refinements say what that keeps. -/
theorem completionFrame : Obligations.CompletionFrame := by
  intro s hbusy hengine
  obtain ⟨rest, hstep⟩ := step_of_engineIsNext hbusy hengine
  obtain ⟨hkey, hkeylen, herr, hcode, -, hreplies, hfree, hidle, hempty⟩ :=
    complete_frame Config.params (s.withAgenda rest)
  exact ⟨_, hstep, hidle, hempty, fun a => congrArg (Memory.read · a) hkey, hkey, hkeylen, herr, hcode,
    hreplies, hfree, complete_init_frame (s := s.withAgenda rest) _,
    complete_other_frame (s := s.withAgenda rest) _⟩

/-! ### A command accepted and then completed -/

/-- Settles O14, by the acceptance of INIT and the completion that runs the key schedule. -/
theorem initBuildsTheKeySchedule : Obligations.InitBuildsTheKeySchedule := fun _ rest hidle hmin hmax =>
  exec_init_then_step rest hidle (keyLengthOk_iff.mpr ⟨hmin, hmax⟩)

/-- The state once a block command on `s` has completed with result `x`. -/
def blockReplaced (s : State) (rest : List Turn) (x : Block) : State :=
  { s with dataL := x.L, dataR := x.R, pending := none, agenda := rest }

/-- A completion that writes the block `x`, after the acceptance of `q` on an idle block. -/
theorem withIdle_of_block (rest : List Turn) (q : Pending) (x : Block) (hidle : s.busy = false) :
    (((s.withPending q).withAgenda rest).withBlock x).withIdle = blockReplaced s rest x := by
  rw [blockReplaced, hidle]
  rfl

/-- ENCRYPT on a keyed idle block, accepted and then completed (41_block_transform.md R115). -/
theorem exec_encrypt_then_step (rest : List Turn) (hidle : s.busy = false) (hkeyed : s.keyed = true) :
    ∃ t, exec .encrypt s = .next t ∧ step { t with agenda := .engine :: rest } =
      .next (blockReplaced s rest (encryptBlock Config.fFn s.ctx (blockOperand s))) :=
  ⟨_, exec_encrypt_of_keyed hidle hkeyed,
    (step_completes rfl rfl).trans (congrArg Host.Outcome.next (withIdle_of_block rest _ _ hidle))⟩

/-- DECRYPT on a keyed idle block, accepted and then completed (41_block_transform.md R116). -/
theorem exec_decrypt_then_step (rest : List Turn) (hidle : s.busy = false) (hkeyed : s.keyed = true) :
    ∃ t, exec .decrypt s = .next t ∧ step { t with agenda := .engine :: rest } =
      .next (blockReplaced s rest (decryptBlock Config.fFn s.ctx (blockOperand s))) :=
  ⟨_, exec_decrypt_of_keyed hidle hkeyed,
    (step_completes rfl rfl).trans (congrArg Host.Outcome.next (withIdle_of_block rest _ _ hidle))⟩

/-- Settles O15, by the acceptance of ENCRYPT and its completion. -/
theorem encryptReplacesTheBlock : Obligations.EncryptReplacesTheBlock :=
  fun _ rest hidle hkeyed => exec_encrypt_then_step rest hidle hkeyed

/-- Settles O16, by the acceptance of DECRYPT and its completion. -/
theorem decryptReplacesTheBlock : Obligations.DecryptReplacesTheBlock :=
  fun _ rest hidle hkeyed => exec_decrypt_then_step rest hidle hkeyed

/-- Two replacements that end in the block the state held change nothing but the agenda. -/
theorem blockReplaced_blockReplaced (rest : List Turn) (x : Block) {y : Block} (hempty : s.pending = none)
    (hy : y = blockOperand s) : blockReplaced (blockReplaced s rest x) rest y = { s with agenda := rest } := by
  rw [hy, blockReplaced, blockReplaced, ← hempty]
  rfl

/-- Settles O17: the second command meets the block the first left and the same context, and the two block
functions undo each other. -/
theorem blockCommandsUndoEachOther : Obligations.BlockCommandsUndoEachOther := by
  intro s rest hidle hkeyed hempty
  constructor
  · obtain ⟨t, ht, hu⟩ := exec_encrypt_then_step rest hidle hkeyed
    obtain ⟨v, hv, hend⟩ := exec_decrypt_then_step
      (s := blockReplaced s rest (encryptBlock Config.fFn s.ctx (blockOperand s))) rest hidle hkeyed
    refine ⟨t, _, v, ht, hu, hv, hend.trans (congrArg _ ?_)⟩
    exact blockReplaced_blockReplaced rest _ hempty (decryptBlock_encryptBlock Config.fFn s.ctx (blockOperand s))
  · obtain ⟨t, ht, hu⟩ := exec_decrypt_then_step rest hidle hkeyed
    obtain ⟨v, hv, hend⟩ := exec_encrypt_then_step
      (s := blockReplaced s rest (decryptBlock Config.fFn s.ctx (blockOperand s))) rest hidle hkeyed
    refine ⟨t, _, v, ht, hu, hv, hend.trans (congrArg _ ?_)⟩
    exact blockReplaced_blockReplaced rest _ hempty (encryptBlock_decryptBlock Config.fFn s.ctx (blockOperand s))

end Sys2Proof.Machine

/-! One host access (20_memory.md R54 to R56): how an address selects the window, what each accepted read returns,
what each accepted write stores, and which error a write raises. -/

namespace Sys2Proof.Machine

open Sys2Proof.Safety

variable {s : State}

/-! ### The window on the bus (20_memory.md R54) -/

theorem bfiiBase_aligned : Config.bfiiBase % 0x1000 = 0 := by
  unfold Config.bfiiBase
  omega

theorem windowOffset_inside (off : BitVec 12) : windowOffset (Config.bfiiBase + off.toNat) = some off := by
  have hlt : off.toNat < 0x1000 := off.isLt
  unfold windowOffset
  rw [if_pos (by omega), Nat.add_sub_cancel_left, BitVec.ofNat_toNat, BitVec.setWidth_eq]

theorem windowOffset_outside {addr : Nat} (h : addr < Config.bfiiBase ∨ Config.bfiiBase + 0x1000 ≤ addr) :
    windowOffset addr = none := by
  unfold windowOffset
  rw [if_neg (by omega)]

/-- Settles O42: the window is the 0x1000 addresses from BFII_BASE on, and the block decodes no other. -/
theorem windowIsSelectedByAddress : Obligations.WindowIsSelectedByAddress := by
  refine ⟨bfiiBase_aligned, fun s off size v => ?inside, fun s addr size v h => ?outside⟩
  case inside =>
    simp only [issue, windowOffset_inside]
    exact ⟨rfl, rfl⟩
  case outside =>
    simp only [issue, windowOffset_outside h, and_self]

/-! ### Reads (20_memory.md R55) -/

theorem readDraws_idle (off : BitVec 12) (hidle : s.busy = false) : readDraws off s = false := by
  simp [readDraws, hidle]

/-- Only a read of DATA_L or DATA_R draws a free value. -/
theorem readDraws_of_slot {off : BitVec 12} {x : Slot} (s : State) (hx : slotAt off = x) (hL : x ≠ .dataL)
    (hR : x ≠ .dataR) : readDraws off s = false := by
  simp [readDraws, hx, hL, hR]

/-- A read of a slot whose value does not depend on BUSY. -/
theorem step_read_of_slot {off : BitVec 12} {size : AccessSize} {rest : List Turn} {x : Slot}
    (h : s.agenda = .host (.read off size) :: rest) (ha : accepted off size = true) (hx : slotAt off = x)
    (hL : x ≠ .dataL) (hR : x ≠ .dataR) :
    step s = .next (answered s rest (.data (readValue off s) false)) :=
  step_read_of_accepted h ha (readDraws_of_slot s hx hL hR)

/-- A read of DATA_L or DATA_R while BUSY = 1 answers a free value, which is then used up (R53; log 8). -/
theorem step_read_draws {off : BitVec 12} {rest : List Turn} (h : s.agenda = .host (.read off .b8) :: rest)
    (hoff : off = 0x020#12 ∨ off = 0x028#12) (hbusy : s.busy = true) :
    step s = .next { answered s rest (.data (Config.draw s.free) false) with free := s.free + 1 } := by
  obtain rfl | rfl := hoff <;>
    simp [step_of_read h, hostRead, readDraws, readValue, hbusy] <;> rfl

theorem readValue_key {off : BitVec 12} (hx : slotAt off = .key) : readValue off s = 0 := by
  simp [readValue, hx]

/-- Key bytes cannot be read back (10_state.md R28). -/
theorem step_read_key {off : BitVec 12} {size : AccessSize} {rest : List Turn}
    (h : s.agenda = .host (.read off size) :: rest) (ha : accepted off size = true) (hx : slotAt off = .key) :
    step s = .next (answered s rest (.data 0 false)) := by
  rw [step_read_of_slot h ha hx nofun nofun, readValue_key hx]

/-- Settles O20, register by register. -/
theorem acceptedReadsReturn : Obligations.AcceptedReadsReturn := by
  intro s rest off size h
  refine ⟨?cmd, ?status, ?keylen, ?dataL, ?dataR, ?busyData, ?key8, ?key1⟩
  case cmd =>
    rintro rfl rfl
    exact step_read_of_slot h accepted_cmd slotAt_cmd nofun nofun
  case status =>
    rintro rfl rfl
    exact step_read_of_slot h accepted_status slotAt_status nofun nofun
  case keylen =>
    rintro rfl rfl
    exact step_read_of_slot h accepted_keylen slotAt_keylen nofun nofun
  case dataL =>
    rintro rfl rfl hidle
    rw [step_read_of_accepted (off := 0x020#12) h accepted_dataL (readDraws_idle _ hidle)]
    simp [readValue, hidle]
  case dataR =>
    rintro rfl rfl hidle
    rw [step_read_of_accepted (off := 0x028#12) h accepted_dataR (readDraws_idle _ hidle)]
    simp [readValue, hidle]
  case busyData =>
    rintro rfl hoff hbusy
    exact step_read_draws h hoff hbusy
  case key8 =>
    rintro rfl hlo hhi halign
    exact step_read_key h (accepted_key8 hlo hhi halign) (slotAt_key hlo (by omega))
  case key1 =>
    rintro rfl hlo hhi
    exact step_read_key h (accepted_key1 hlo hhi) (slotAt_key hlo (by omega))

/-! ### Writes (20_memory.md R56) -/

/-- On an idle block an accepted write has its effect. -/
theorem step_write_idle {off : BitVec 12} {size : AccessSize} {v : Word} {rest : List Turn}
    (h : s.agenda = .host (.write off size v) :: rest) (ha : accepted off size = true) (hidle : s.busy = false) :
    step s = writeEffect off size v (answered s rest (.done false)) := by
  rw [step_write_of_accepted h ha, if_neg (by simp [hidle])]

/-- A write to CMD runs the command its word decodes to. -/
theorem writeEffect_cmd {c : Word} {i : Instr} (size : AccessSize) (hd : decode c = .ok i) (s : State) :
    writeEffect 0x000#12 size c s = exec i s := by
  simp only [writeEffect, slotAt_cmd, command, hd]

/-- Settles O4: idle or busy, the bus and the command make the same busy check. -/
theorem stepRunsDecodedCommand : Obligations.StepRunsDecodedCommand := by
  intro s rest c i h hd _
  rw [step_write_of_accepted (off := 0x000#12) h accepted_cmd, writeEffect_cmd .b8 hd]
  split
  next hbusy => exact (exec_busy (s := answered s rest (.done false)) i hbusy).symm
  next => rfl

/-- Settles O22, register by register. -/
theorem registerWritesStore : Obligations.RegisterWritesStore := by
  intro s rest v hidle
  refine ⟨fun h => ?keylen, fun h => ?dataL, fun h => ?dataR⟩
  case keylen =>
    rw [step_write_idle (off := 0x010#12) h accepted_keylen hidle, ← BitVec.setWidth_eq_extractLsb' (by decide)]
    rfl
  case dataL => exact step_write_idle (off := 0x020#12) h accepted_dataL hidle
  case dataR => exact step_write_idle (off := 0x028#12) h accepted_dataR hidle

/-- An accepted write in the KEY window sets the bytes under the access to the lanes of the value and no other byte,
in a buffer that stays in canonical form (R46, R52; log 14). -/
theorem step_write_key {off : BitVec 12} {size : AccessSize} {v : Word} {rest : List Turn}
    (h : s.agenda = .host (.write off size v) :: rest) (ha : accepted off size = true)
    (hx : slotAt off = .key) (hidle : s.busy = false) (hwf : s.key.wf = true) :
    ∃ m : Memory, step s = .next { answered s rest (.done false) with key := m } ∧ m.wf = true ∧
      ∀ a, m.read a = if off.toNat ≤ a ∧ a < off.toNat + byteCount size then lane v (a - off.toNat)
        else s.key.read a := by
  obtain ⟨hlo, hhi⟩ := accepted_key_bounds ha hx
  refine ⟨s.key.writeLanes off.toNat v (byteCount size), ?_, Memory.wf_writeLanes hwf hlo hhi,
    Memory.read_writeLanes hwf hlo hhi⟩
  rw [step_write_idle h ha hidle]
  simp only [writeEffect, hx]
  rfl

/-- Settles O23: the bytes under a 1-byte and under an aligned 8-byte access to the KEY window. -/
theorem keyWindowWritesStoreBytes : Obligations.KeyWindowWritesStoreBytes := by
  intro s rest v hidle hwf
  refine ⟨fun off j hj hoff h => ?byte, fun off w hw hoff h => ?word⟩
  case byte =>
    obtain ⟨m, hstep, hm, hread⟩ := step_write_key h (accepted_key1 (by omega) (by omega))
      (slotAt_key (by omega) (by omega)) hidle hwf
    refine ⟨m, hstep, hm, fun a => ?_⟩
    rw [hread, hoff, byteCount]
    by_cases ha : a = 0x200 + j
    · rw [if_pos (by omega), if_pos ha, ha, Nat.sub_self, lane]
    · rw [if_neg (by omega), if_neg ha]
  case word =>
    obtain ⟨m, hstep, hm, hread⟩ := step_write_key h (accepted_key8 (by omega) (by omega) (by omega))
      (slotAt_key (by omega) (by omega)) hidle hwf
    refine ⟨m, hstep, hm, fun i hi => ?_, fun a ha => ?_⟩
    · rw [hread, hoff, byteCount, if_pos (by omega), Nat.add_sub_cancel_left, lane]
    · rw [hread, hoff, byteCount, if_neg (by omega)]

/-! ### Which error a write raises (60_exceptions.md R145) -/

/-- The error record a write with code `code` leaves where none stood before; 0 is no error. -/
def RaisedCode (code : BitVec 4) (t : State) : Prop := (t.err = true ↔ t.errcode ≠ 0) ∧ t.errcode = code

theorem raisedCode_recorded {code : BitVec 4} (hnone : s.err = false) (hcode : code ≠ 0) :
    RaisedCode code (recorded code s) := by
  simpa [RaisedCode, hnone] using hcode

theorem raisedCode_zero (hnone : s.err = false) (hcode : s.errcode = 0) : RaisedCode 0 s := by
  simp [RaisedCode, hnone, hcode]

/-- The code of the first check of an idle block's command that fails (R142 to R144). -/
def commandCode (c : Word) (s : State) : BitVec 4 :=
  match decode c with
  | .error _ => 1
  | .ok .nop => 0
  | .ok .init => if s.keylen.toNat = 0 ∨ 528 < s.keylen.toNat then 2 else 0
  | .ok .encrypt => if s.keyed = false then 3 else 0
  | .ok .decrypt => if s.keyed = false then 3 else 0

section

variable (hidle : s.busy = false) (hnone : s.err = false) (hcode : s.errcode = 0)
include hidle hnone hcode

theorem exec_init_raises : ∃ t, exec .init s = .next t ∧
    RaisedCode (if s.keylen.toNat = 0 ∨ 528 < s.keylen.toNat then 2 else 0) t := by
  split
  next hbad =>
    exact ⟨_, initOutOfRangeIsRefused s hidle hbad, raisedCode_recorded hnone (by decide)⟩
  next hgood =>
    have hk : keyLengthOk s.keylen.toNat = true := keyLengthOk_iff.mpr (by omega)
    exact ⟨_, exec_init_of_keyLengthOk hidle hk, raisedCode_zero hnone hcode⟩

/-- A block command, given what it does on a keyed and on an unkeyed block. -/
theorem acceptBlock_raises (op : Block → Pending) :
    RaisedCode (if s.keyed = false then 3 else 0) (unlessBusy s (acceptBlock op)) := by
  rw [unlessBusy_idle _ hidle]
  split
  next hunkeyed =>
    rw [acceptBlock_unkeyed op hunkeyed]
    exact raisedCode_recorded hnone (by decide)
  next hkeyed =>
    rw [acceptBlock_keyed op (eq_true_of_ne_false hkeyed)]
    exact raisedCode_zero hnone hcode

theorem command_raises (c : Word) : ∃ t, command c s = .next t ∧ RaisedCode (commandCode c s) t := by
  unfold command commandCode
  cases decode c with
  | error _ =>
    refine ⟨_, rfl, ?_⟩
    rw [unlessBusy_idle _ hidle]
    exact raisedCode_recorded hnone (show (1 : BitVec 4) ≠ 0 by decide)
  | ok i =>
    cases i with
    | nop => exact ⟨_, nopChangesNothing s hidle, raisedCode_zero hnone hcode⟩
    | init => exact exec_init_raises hidle hnone hcode
    | encrypt => exact ⟨_, rfl, acceptBlock_raises hidle hnone hcode _⟩
    | decrypt => exact ⟨_, rfl, acceptBlock_raises hidle hnone hcode _⟩

/-- Only a write to CMD can raise an error of its own. -/
theorem writeEffect_raises (off : BitVec 12) (size : AccessSize) (v : Word) :
    ∃ t, writeEffect off size v s = .next t ∧
      RaisedCode (if off ≠ 0x000#12 then 0 else commandCode v s) t := by
  by_cases hcmd : off = 0x000#12
  · subst hcmd
    exact command_raises hidle hnone hcode v
  · rw [if_pos hcmd]
    unfold writeEffect
    split
    next hx => exact absurd (eq_of_slotAt_cmd hx) hcmd
    all_goals exact ⟨_, rfl, raisedCode_zero hnone hcode⟩

end

/-- Settles O26: the checks of R145 in their order, each met only when those before it pass. -/
theorem firstFailingCheckIsRecorded : Obligations.FirstFailingCheckIsRecorded := by
  intro s rest off size v hnone hcode h
  change ∃ t, step s = .next t ∧ RaisedCode (if accepted off size = false then 5 else if s.busy = true then 4
    else if off ≠ 0x000 then 0 else commandCode v s) t
  by_cases hrej : accepted off size = false
  · rw [if_pos hrej]
    exact ⟨_, step_write_of_rejected h hrej, raisedCode_recorded hnone (by decide)⟩
  rw [if_neg hrej]
  have ha : accepted off size = true := eq_true_of_ne_false hrej
  by_cases hbusy : s.busy = true
  · rw [if_pos hbusy, step_write_of_accepted h ha, if_pos hbusy]
    exact ⟨_, rfl, raisedCode_recorded hnone (by decide)⟩
  · rw [if_neg hbusy, step_write_of_accepted h ha, if_neg hbusy]
    exact writeEffect_raises (s := answered s rest (.done false)) (eq_false_of_ne_true hbusy) hnone hcode off size v

end Sys2Proof.Machine

/-! All that one step can do, said once (`StepEffect`), and what follows for every step: the invariant, who writes each
register, when KEYED and BUSY change, and that an error has no other effect. -/

namespace Sys2Proof.Machine

open Sys2Proof.Safety

variable {s t : State}

/-! ### The effects of a step (20_memory.md R58) -/

/-- `StepEffect s t`: one of the things a step from `s` can do, with the condition under which it does it, leads
to `t`. -/
inductive StepEffect (s : State) : State → Prop
  /-- The engine's turn on an idle block. -/
  | rests (h : engineIsNext s) (hidle : s.busy = false) : StepEffect s (s.withAgenda s.agenda.tail)
  /-- The engine's turn with BUSY = 1 and PENDING empty (log 11). -/
  | becomesIdle (h : engineIsNext s) (hbusy : s.busy = true) (hp : s.pending = none) :
      StepEffect s (s.withAgenda s.agenda.tail).withIdle
  /-- INIT completes (40_key_schedule.md R96). -/
  | completesInit (h : engineIsNext s) (hbusy : s.busy = true) (k : List Byte) (n : BitVec 10)
      (c : Context) (hp : s.pending = some (.init k n)) (hc : c = keySchedule Config.params k n.toNat) :
      StepEffect s (((s.withAgenda s.agenda.tail).withCtx c).withKeyed true).withIdle
  /-- A block command completes (41_block_transform.md R115, R116). -/
  | completesBlock (h : engineIsNext s) (hbusy : s.busy = true) (b x : Block)
      (hp : s.pending = some (.encrypt b) ∧ x = encryptBlock Config.fFn s.ctx b ∨
        s.pending = some (.decrypt b) ∧ x = decryptBlock Config.fFn s.ctx b) :
      StepEffect s ((s.withAgenda s.agenda.tail).withBlock x).withIdle
  /-- Reset (70_reset_and_hazards.md R160). -/
  | resets (rest : List Turn) (h : s.agenda = .reset :: rest) : StepEffect s (applyReset (s.withAgenda rest))
  /-- An access that raises an error (60_exceptions.md R138). -/
  | raises (a : Access) (rest : List Turn) (h : s.agenda = .host a :: rest) (e : ErrorCode) (r : Reply) :
      StepEffect s (raiseError e (answered s rest r))
  /-- An access that only answers. -/
  | answers (a : Access) (rest : List Turn) (h : s.agenda = .host a :: rest) (r : Reply) :
      StepEffect s (answered s rest r)
  /-- A read that draws a free value (log 8). -/
  | draws (off : BitVec 12) (size : AccessSize) (rest : List Turn)
      (h : s.agenda = .host (.read off size) :: rest) (hbusy : s.busy = true) (r : Reply) :
      StepEffect s (answered s rest r).withDrawn
  /-- A write to KEYLEN. -/
  | writesKeylen (v : Word) (rest : List Turn) (h : s.agenda = .host (.write 0x010#12 .b8 v) :: rest)
      (hidle : s.busy = false) (r : Reply) : StepEffect s ((answered s rest r).withKeylen (v.setWidth 10))
  /-- A write to DATA_L. -/
  | writesDataL (v : Word) (rest : List Turn) (h : s.agenda = .host (.write 0x020#12 .b8 v) :: rest)
      (hidle : s.busy = false) (r : Reply) : StepEffect s ((answered s rest r).withDataL v)
  /-- A write to DATA_R. -/
  | writesDataR (v : Word) (rest : List Turn) (h : s.agenda = .host (.write 0x028#12 .b8 v) :: rest)
      (hidle : s.busy = false) (r : Reply) : StepEffect s ((answered s rest r).withDataR v)
  /-- A write to the KEY window. -/
  | writesKey (off : BitVec 12) (size : AccessSize) (v : Word) (rest : List Turn)
      (h : s.agenda = .host (.write off size v) :: rest) (hidle : s.busy = false)
      (ha : accepted off size = true) (hx : slotAt off = .key) (r : Reply) :
      StepEffect s ((answered s rest r).withKey (s.key.writeLanes off.toNat v (byteCount size)))
  /-- INIT is accepted (60_exceptions.md R141). -/
  | acceptsInit (c : Word) (rest : List Turn) (h : s.agenda = .host (.write 0x000#12 .b8 c) :: rest)
      (hidle : s.busy = false) (hd : decode c = .ok .init) (hk : keyLengthOk s.keylen.toNat = true) (r : Reply) :
      StepEffect s (((answered s rest r).withPending (initOperands s)).withKeyed false)
  /-- A block command is accepted (60_exceptions.md R141). -/
  | acceptsBlock (c : Word) (rest : List Turn) (h : s.agenda = .host (.write 0x000#12 .b8 c) :: rest)
      (hidle : s.busy = false) (hkeyed : s.keyed = true) (q : Pending)
      (hq : decode c = .ok .encrypt ∧ q = .encrypt (blockOperand s) ∨
        decode c = .ok .decrypt ∧ q = .decrypt (blockOperand s)) (r : Reply) :
      StepEffect s ((answered s rest r).withPending q)

theorem stepEffect_of_read {off : BitVec 12} {size : AccessSize} {rest : List Turn}
    (h : s.agenda = .host (.read off size) :: rest) (hx : step s = .next t) : StepEffect s t := by
  rw [step_of_read h] at hx
  obtain ⟨-, -, hr⟩ | ⟨-, hd, hr⟩ | ⟨-, hr⟩ := hostRead_cases off size (s.withAgenda rest) <;>
    rw [hr] at hx <;> cases hx
  · exact .answers _ rest h _
  · have hbusy : s.busy = true := by
      simp only [readDraws, Bool.and_eq_true] at hd
      exact hd.1
    exact .draws off size rest h hbusy _
  · rw [← raiseError_withReply]
    exact .raises _ rest h _ _

/-- Outside the KEY window the accepted accesses are those of 8 bytes (20_memory.md R47). -/
theorem size_of_accepted {off : BitVec 12} {size : AccessSize} (ha : accepted off size = true)
    (hx : slotAt off ≠ .key) : size = .b8 := by
  cases size with
  | b8 => rfl
  | b2 => cases ha
  | b4 => cases ha
  | b1 =>
    simp only [accepted, Bool.and_eq_true, decide_eq_true_eq] at ha
    exact absurd (slotAt_key ha.1 (by omega)) hx

theorem stepEffect_of_cmd {c : Word} {i : Instr} {rest : List Turn}
    (h : s.agenda = .host (.write 0x000#12 .b8 c) :: rest) (hd : decode c = .ok i) (r : Reply)
    (hx : exec i (answered s rest r) = .next t) : StepEffect s t := by
  obtain ⟨e, hi⟩ | ⟨-, -, hi⟩ | ⟨rfl, hidle, hk, hi⟩ | ⟨rfl, hidle, hkeyed, hi⟩ | ⟨rfl, hidle, hkeyed, hi⟩ :=
    exec_cases i (answered s rest r) <;> cases hi.symm.trans hx
  · exact .raises _ rest h e r
  · exact .answers _ rest h r
  · exact .acceptsInit c rest h hidle hd hk r
  · exact .acceptsBlock c rest h hidle hkeyed _ (.inl ⟨hd, rfl⟩) r
  · exact .acceptsBlock c rest h hidle hkeyed _ (.inr ⟨hd, rfl⟩) r

theorem stepEffect_of_write {off : BitVec 12} {size : AccessSize} {v : Word} {rest : List Turn}
    (h : s.agenda = .host (.write off size v) :: rest) (hx : step s = .next t) : StepEffect s t := by
  have hx : hostWrite off size v (answered s rest (writeReply off size)) = .next t := (step_of_host h).symm.trans hx
  obtain ⟨e, hw⟩ | ⟨ha, hidle, hw⟩ := hostWrite_cases off size v (answered s rest (writeReply off size))
  · cases hw.symm.trans hx
    exact .raises _ rest h e _
  have hsize (hslot : slotAt off ≠ .key) : size = .b8 := size_of_accepted ha hslot
  obtain hw | ⟨hslot, hw⟩ | ⟨hslot, hw⟩ | ⟨hslot, hw⟩ | ⟨hslot, hw⟩ | ⟨hslot, i, hd, hw⟩ := hw
  · cases hw.symm.trans hx
    exact .answers _ rest h _
  · cases hw.symm.trans hx
    cases eq_of_slotAt_keylen hslot
    cases hsize nofun
    exact .writesKeylen v rest h hidle _
  · cases hw.symm.trans hx
    cases eq_of_slotAt_dataL hslot
    cases hsize nofun
    exact .writesDataL v rest h hidle _
  · cases hw.symm.trans hx
    cases eq_of_slotAt_dataR hslot
    cases hsize nofun
    exact .writesDataR v rest h hidle _
  · cases hw.symm.trans hx
    exact .writesKey off size v rest h hidle ha hslot _
  · cases eq_of_slotAt_cmd hslot
    cases hsize nofun
    exact stepEffect_of_cmd h hd _ (hw.symm.trans hx)

/-- The engine's turn, its own turn used up if there was one. -/
theorem stepEffect_of_engine (h : engineIsNext s) :
    StepEffect s (engineTurn Config.params (s.withAgenda s.agenda.tail)) := by
  cases hb : s.busy with
  | false =>
    rw [engineTurn_idle (s := s.withAgenda s.agenda.tail) _ hb]
    exact .rests h hb
  | true =>
    rw [engineTurn_busy (s := s.withAgenda s.agenda.tail) _ hb]
    obtain ⟨hp, hc⟩ | ⟨k, n, hp, hc⟩ | ⟨b, hp, hc⟩ | ⟨b, hp, hc⟩ :=
      complete_cases Config.params (s.withAgenda s.agenda.tail) <;> rw [hc]
    · exact .becomesIdle h hb hp
    · exact .completesInit h hb k n _ hp (runKeySchedule_eq _ k n.toNat _)
    · exact .completesBlock h hb b _ (.inl ⟨hp, rfl⟩)
    · exact .completesBlock h hb b _ (.inr ⟨hp, rfl⟩)

/-- A step has one of the effects listed. -/
theorem stepEffect_of_step (hx : step s = .next t) : StepEffect s t := by
  obtain ⟨ha, hs⟩ | ⟨a, rest, ha, -⟩ | ⟨rest, ha, hs⟩ | ⟨rest, ha, hs⟩ := step_cases s
  · cases hs.symm.trans hx
    have heffect := stepEffect_of_engine (.inl ha : engineIsNext s)
    rwa [ha, List.tail_nil, ← ha, State.withAgenda_self] at heffect
  · cases a with
    | read off size => exact stepEffect_of_read ha hx
    | write off size v => exact stepEffect_of_write ha hx
  · cases hs.symm.trans hx
    have heffect := stepEffect_of_engine (.inr ⟨rest, ha⟩ : engineIsNext s)
    rwa [ha, List.tail_cons] at heffect
  · cases hs.symm.trans hx
    exact .resets rest ha

/-! ### Every step answers (60_exceptions.md R135) -/

theorem exec_answers (i : Instr) (s : State) : ∃ t, exec i s = .next t := by
  obtain ⟨e, hx⟩ | ⟨-, -, hx⟩ | ⟨-, -, -, hx⟩ | ⟨-, -, -, hx⟩ | ⟨-, -, -, hx⟩ := exec_cases i s <;>
    exact ⟨_, hx⟩

theorem hostWrite_answers (off : BitVec 12) (size : AccessSize) (v : Word) (s : State) :
    ∃ t, hostWrite off size v s = .next t := by
  obtain ⟨e, hw⟩ | ⟨-, -, hw | ⟨-, hw⟩ | ⟨-, hw⟩ | ⟨-, hw⟩ | ⟨-, hw⟩ | ⟨-, i, -, hw⟩⟩ :=
    hostWrite_cases off size v s
  case inr.inr.inr.inr.inr.inr => exact hw ▸ exec_answers i s
  all_goals exact ⟨_, hw⟩

/-- Settles O30: of the four kinds of turn only a write could fail to answer, and it does not. -/
theorem everyStepAnswersNext : Obligations.EveryStepAnswersNext := by
  intro s
  obtain ⟨-, hs⟩ | ⟨a, rest, -, hs⟩ | ⟨rest, -, hs⟩ | ⟨rest, -, hs⟩ := step_cases s
  case inr.inl =>
    cases a with
    | read off size => exact ⟨_, hs⟩
    | write off size v => exact hs ▸ hostWrite_answers off size v _
  all_goals exact ⟨_, hs⟩

end Sys2Proof.Machine

/-! What follows for every step from the list of its effects: the invariant of the machine, who writes each register,
and that an error has no other effect. -/

namespace Sys2Proof.Machine

open Sys2Proof.Safety

variable {s t : State}

/-! ### The fields of a state that has answered an access -/

section Answered

variable (s) (rest : List Turn) (r : Reply)

@[simp] theorem answered_ctx : (answered s rest r).ctx = s.ctx := rfl
@[simp] theorem answered_key : (answered s rest r).key = s.key := rfl
@[simp] theorem answered_keylen : (answered s rest r).keylen = s.keylen := rfl
@[simp] theorem answered_dataL : (answered s rest r).dataL = s.dataL := rfl
@[simp] theorem answered_dataR : (answered s rest r).dataR = s.dataR := rfl
@[simp] theorem answered_busy : (answered s rest r).busy = s.busy := rfl
@[simp] theorem answered_keyed : (answered s rest r).keyed = s.keyed := rfl
@[simp] theorem answered_err : (answered s rest r).err = s.err := rfl
@[simp] theorem answered_errcode : (answered s rest r).errcode = s.errcode := rfl
@[simp] theorem answered_pending : (answered s rest r).pending = s.pending := rfl
@[simp] theorem answered_agenda : (answered s rest r).agenda = rest := rfl

end Answered

/-! ### The invariant (10_state.md R24, R33 to R36, R38) -/

/-- A state with the values of reset meets the invariant, whatever the model's own fields hold. -/
theorem inv_afterReset (n : Nat) (agenda : List Turn) (replies : List Reply) :
    Inv (State.afterReset n agenda replies) where
  busy_iff_pending := rfl
  no_code_without_err _ := rfl
  code_with_err := nofun
  key_wf := rfl
  init_in_flight := nofun
  encrypt_in_flight := nofun
  decrypt_in_flight := nofun
  keyed_context := nofun

/-- Settles O32: reset leaves the block idle, unkeyed and without an error. -/
theorem resetMeetsTheInvariant : Obligations.ResetMeetsTheInvariant :=
  ⟨inv_afterReset 0 [] [], fun agenda => inv_afterReset 0 agenda []⟩

/-- Every code an error writes is one of 1..5 (60_exceptions.md R136). -/
theorem errorBits_range (e : ErrorCode) : 1 ≤ (errorBits e).toNat ∧ (errorBits e).toNat ≤ 5 := by
  cases e <;> decide

theorem inv_raiseError (h : Inv s) (e : ErrorCode) : Inv (raiseError e s) := by
  obtain ⟨-, he⟩ | ⟨-, he⟩ := raiseError_cases e s <;> rw [he]
  · exact h
  · exact { h with no_code_without_err := nofun, code_with_err := fun _ => errorBits_range e }

/-- The invariant does not speak of the model's own fields. -/
theorem inv_answered (h : Inv s) (rest : List Turn) (r : Reply) : Inv (answered s rest r) := { h with }

theorem pending_none_of_inv (h : Inv s) (hidle : s.busy = false) : s.pending = none := by
  rwa [← Option.isNone_iff_eq_none, ← Option.isSome_eq_false_iff, ← h.busy_iff_pending]

/-- An idle state with the error record of one that meets the invariant: what is left to check. -/
theorem inv_of_idle (h : Inv s) (hidle : t.busy = false) (hempty : t.pending = none) (herr : t.err = s.err)
    (hcode : t.errcode = s.errcode) (hwf : t.key.wf = true)
    (hctx : t.keyed = true → ∃ (k : List Byte) (n : Nat), k.length = n ∧ keyLengthOk n = true ∧
      t.ctx = keySchedule Config.params k n) : Inv t where
  busy_iff_pending := by rw [hidle, hempty]; rfl
  no_code_without_err := by rw [herr, hcode]; exact h.no_code_without_err
  code_with_err := by rw [herr, hcode]; exact h.code_with_err
  key_wf := hwf
  init_in_flight := by simp [hempty]
  encrypt_in_flight := by simp [hempty]
  decrypt_in_flight := by simp [hempty]
  keyed_context := hctx

/-- An INIT in flight leaves, when it completes, the key schedule of a key in range. -/
theorem keyed_context_of_init (h : Inv s) {k : List Byte} {n : BitVec 10} (hp : s.pending = some (.init k n)) :
    k.length = n.toNat ∧ keyLengthOk n.toNat = true := by
  obtain ⟨-, -, hk, hlen⟩ := h.init_in_flight k n hp
  refine ⟨?_, hlen⟩
  rw [hk, keyBytes, List.length_map, List.length_range]

theorem inv_acceptsInit (h : Inv s) (hk : keyLengthOk s.keylen.toNat = true) :
    Inv ((s.withPending (initOperands s)).withKeyed false) :=
  { h with
    busy_iff_pending := rfl
    init_in_flight := fun _ _ hp => by cases hp; exact ⟨rfl, rfl, rfl, hk⟩
    encrypt_in_flight := nofun
    decrypt_in_flight := nofun
    keyed_context := nofun }

theorem inv_acceptsEncrypt (h : Inv s) (hkeyed : s.keyed = true) :
    Inv (s.withPending (.encrypt (blockOperand s))) :=
  { h with
    busy_iff_pending := rfl
    init_in_flight := nofun
    encrypt_in_flight := fun _ hp => by cases hp; exact ⟨hkeyed, rfl⟩
    decrypt_in_flight := nofun }

theorem inv_acceptsDecrypt (h : Inv s) (hkeyed : s.keyed = true) :
    Inv (s.withPending (.decrypt (blockOperand s))) :=
  { h with
    busy_iff_pending := rfl
    init_in_flight := nofun
    encrypt_in_flight := nofun
    decrypt_in_flight := fun _ hp => by cases hp; exact ⟨hkeyed, rfl⟩ }

theorem inv_of_stepEffect (h : Inv s) (hx : StepEffect s t) : Inv t := by
  cases hx with
  | rests _ _ => exact { h with }
  | becomesIdle _ _ _ => exact inv_of_idle h rfl rfl rfl rfl h.key_wf h.keyed_context
  | completesInit _ _ k n c hp hc =>
    obtain ⟨hlen, hok⟩ := keyed_context_of_init h hp
    exact inv_of_idle h rfl rfl rfl rfl h.key_wf fun _ => ⟨k, n.toNat, hlen, hok, hc⟩
  | completesBlock _ _ _ _ _ => exact inv_of_idle h rfl rfl rfl rfl h.key_wf h.keyed_context
  | resets _ _ => exact inv_afterReset _ _ _
  | raises _ rest _ e r => exact inv_raiseError (inv_answered h rest r) e
  | answers _ rest _ r => exact inv_answered h rest r
  | draws _ _ _ _ _ _ => exact { h with }
  | writesKeylen _ _ _ hidle _ =>
    have hempty := pending_none_of_inv h hidle
    exact inv_of_idle h hidle hempty rfl rfl h.key_wf h.keyed_context
  | writesDataL _ _ _ hidle _ =>
    have hempty := pending_none_of_inv h hidle
    exact inv_of_idle h hidle hempty rfl rfl h.key_wf h.keyed_context
  | writesDataR _ _ _ hidle _ =>
    have hempty := pending_none_of_inv h hidle
    exact inv_of_idle h hidle hempty rfl rfl h.key_wf h.keyed_context
  | writesKey off size v _ _ hidle ha hslot _ =>
    obtain ⟨hlo, hhi⟩ := accepted_key_bounds ha hslot
    have hempty := pending_none_of_inv h hidle
    exact inv_of_idle h hidle hempty rfl rfl (Memory.wf_writeLanes h.key_wf hlo hhi) h.keyed_context
  | acceptsInit _ rest _ _ _ hk r => exact inv_acceptsInit (inv_answered h rest r) hk
  | acceptsBlock _ rest _ _ hkeyed _ hq r =>
    obtain ⟨-, rfl⟩ | ⟨-, rfl⟩ := hq
    · exact inv_acceptsEncrypt (inv_answered h rest r) hkeyed
    · exact inv_acceptsDecrypt (inv_answered h rest r) hkeyed

/-- Settles O31: each effect of a step keeps the invariant. -/
theorem stepKeepsTheInvariant : Obligations.StepKeepsTheInvariant :=
  fun _ _ h hx => inv_of_stepEffect h (stepEffect_of_step hx)

/-! ### Errors have no other effect (60_exceptions.md R146) -/

theorem raiseError_eq_record (e : ErrorCode) (s : State) :
    raiseError e s = { s with err := (raiseError e s).err, errcode := (raiseError e s).errcode } := by
  unfold raiseError
  split <;> rfl

/-- Settles O29: of a step's effects only an error raised and a reset touch the error record. -/
theorem errorsHaveNoOtherEffect : Obligations.ErrorsHaveNoOtherEffect := by
  intro s t hx hr hchanged
  cases stepEffect_of_step hx
  case raises a rest h e r => exact ⟨a, rest, r, h, raiseError_eq_record e _⟩
  case resets rest h => exact absurd ⟨rest, h⟩ hr
  all_goals simp at hchanged

/-! ### Who writes the context (10_state.md R22 to R24) -/

/-- Settles O33: no other effect of a step has a new context. -/
theorem onlyInitWritesTheContext : Obligations.OnlyInitWritesTheContext := by
  intro s t hx
  cases stepEffect_of_step hx
  case completesInit h hbusy k n c hp hc => exact .inr (.inl ⟨h, hbusy, k, n, hp, hc, rfl⟩)
  case resets rest h => exact .inr (.inr ⟨rest, h, rfl⟩)
  all_goals exact .inl (by simp)

/-! ### Who writes the host's registers (10_state.md R27, R29 to R31) -/

section Writers

variable (hx : step s = .next t) (hr : ¬∃ rest, s.agenda = .reset :: rest)
include hx hr

theorem writer_of_key (hne : t.key ≠ s.key) : s.busy = false ∧ ∃ off size v rest,
    s.agenda = .host (.write off size v) :: rest ∧ 0x200 ≤ off.toNat ∧ off.toNat < 0x410 := by
  cases stepEffect_of_step hx
  case writesKey off size v rest h hidle _ hslot r =>
    exact ⟨hidle, off, size, v, rest, h, bounds_of_slotAt_key hslot⟩
  case resets rest h => exact absurd ⟨rest, h⟩ hr
  all_goals simp at hne

theorem writer_of_keylen (hne : t.keylen ≠ s.keylen) :
    s.busy = false ∧ ∃ v rest, s.agenda = .host (.write 0x010 .b8 v) :: rest := by
  cases stepEffect_of_step hx
  case writesKeylen v rest h hidle r => exact ⟨hidle, v, rest, h⟩
  case resets rest h => exact absurd ⟨rest, h⟩ hr
  all_goals simp at hne

theorem writer_of_dataL (hne : t.dataL ≠ s.dataL) :
    (s.busy = false ∧ ∃ v rest, s.agenda = .host (.write 0x020 .b8 v) :: rest) ∨
    (s.busy = true ∧ engineIsNext s ∧ ∃ b, s.pending = some (.encrypt b) ∨ s.pending = some (.decrypt b)) := by
  cases stepEffect_of_step hx
  case writesDataL v rest h hidle r => exact .inl ⟨hidle, v, rest, h⟩
  case completesBlock h hbusy b x hp => exact .inr ⟨hbusy, h, b, hp.imp And.left And.left⟩
  case resets rest h => exact absurd ⟨rest, h⟩ hr
  all_goals simp at hne

theorem writer_of_dataR (hne : t.dataR ≠ s.dataR) :
    (s.busy = false ∧ ∃ v rest, s.agenda = .host (.write 0x028 .b8 v) :: rest) ∨
    (s.busy = true ∧ engineIsNext s ∧ ∃ b, s.pending = some (.encrypt b) ∨ s.pending = some (.decrypt b)) := by
  cases stepEffect_of_step hx
  case writesDataR v rest h hidle r => exact .inl ⟨hidle, v, rest, h⟩
  case completesBlock h hbusy b x hp => exact .inr ⟨hbusy, h, b, hp.imp And.left And.left⟩
  case resets rest h => exact absurd ⟨rest, h⟩ hr
  all_goals simp at hne

end Writers

/-- Settles O34, register by register. -/
theorem writersOfTheHostRegisters : Obligations.WritersOfTheHostRegisters := fun _ _ hx hr =>
  ⟨writer_of_key hx hr, writer_of_keylen hx hr, writer_of_dataL hx hr, writer_of_dataR hx hr⟩

/-! ### When KEYED and BUSY change (10_state.md R33, R34) -/

/-- INIT has one word (30_encoding.md R72). -/
theorem decode_eq_init_iff {c : Word} : decode c = .ok .init ↔ c = 0x0000000000000001 := decode_eq_ok_iff

theorem cause_of_keyed_set (hx : step s = .next t) (hs : s.keyed = false) (ht : t.keyed = true) :
    engineIsNext s ∧ s.busy = true ∧ ∃ k n, s.pending = some (.init k n) := by
  cases stepEffect_of_step hx
  case completesInit h hbusy k n c hp hc => exact ⟨h, hbusy, k, n, hp⟩
  case resets => cases ht
  all_goals simp [hs] at ht

theorem cause_of_keyed_cleared (hx : step s = .next t) (hs : s.keyed = true) (ht : t.keyed = false) :
    (∃ rest, s.agenda = .reset :: rest) ∨
    (s.busy = false ∧ 1 ≤ s.keylen.toNat ∧ s.keylen.toNat ≤ 528 ∧
      ∃ rest, s.agenda = .host (.write 0x000 .b8 0x0000000000000001) :: rest) := by
  cases stepEffect_of_step hx
  case resets rest h => exact .inl ⟨rest, h⟩
  case acceptsInit c rest h hidle hd hk r =>
    obtain ⟨hmin, hmax⟩ := keyLengthOk_iff.mp hk
    exact .inr ⟨hidle, hmin, hmax, rest, decode_eq_init_iff.mp hd ▸ h⟩
  all_goals simp [hs] at ht

/-- A completion of INIT leaves KEYED = 1. -/
theorem keyed_of_completion (hx : step s = .next t) (h : engineIsNext s) (hbusy : s.busy = true)
    (hp : ∃ k n, s.pending = some (.init k n)) : t.keyed = true := by
  obtain ⟨rest, hstep⟩ := step_of_engineIsNext hbusy h
  cases hstep.symm.trans hx
  obtain ⟨-, -, hkeyed⟩ := complete_init_frame (s := s.withAgenda rest) Config.params hp
  exact hkeyed

/-- An INIT that is accepted leaves KEYED = 0. -/
theorem keyed_of_init {rest : List Turn} (hx : step s = .next t)
    (h : s.agenda = .host (.write 0x000#12 .b8 0x0000000000000001) :: rest) (hidle : s.busy = false)
    (hk : keyLengthOk s.keylen.toNat = true) : t.keyed = false := by
  have hexec := exec_init_of_keyLengthOk (s := answered s rest (.done false)) hidle hk
  rw [step_write_idle h accepted_cmd hidle, writeEffect_cmd .b8 (decode_eq_init_iff.mpr rfl), hexec] at hx
  cases hx
  rfl

/-- A reset leaves KEYED = 0 and BUSY = 0. -/
theorem idle_unkeyed_of_reset {rest : List Turn} (hx : step s = .next t) (h : s.agenda = .reset :: rest) :
    t.keyed = false ∧ t.busy = false := by
  cases (step_of_reset h).symm.trans hx
  exact ⟨rfl, rfl⟩

/-- Settles O35: the two changes have their causes, and each of the three causes its value. -/
theorem keyedChangesOnlyByInitAndReset : Obligations.KeyedChangesOnlyByInitAndReset := fun _ _ hx =>
  ⟨cause_of_keyed_set hx, cause_of_keyed_cleared hx, keyed_of_completion hx,
    fun ⟨_, h⟩ hidle hmin hmax => keyed_of_init hx h hidle (keyLengthOk_iff.mpr ⟨hmin, hmax⟩),
    fun ⟨_, h⟩ => (idle_unkeyed_of_reset hx h).1⟩

theorem cause_of_busy_set (hx : step s = .next t) (hs : s.busy = false) (ht : t.busy = true) :
    ∃ c i rest, s.agenda = .host (.write 0x000 .b8 c) :: rest ∧ decode c = .ok i ∧ i ≠ .nop ∧
      (i = .init → 1 ≤ s.keylen.toNat ∧ s.keylen.toNat ≤ 528) ∧ (i ≠ .init → s.keyed = true) := by
  cases stepEffect_of_step hx
  case acceptsInit c rest h _ hd hk r =>
    exact ⟨c, .init, rest, h, hd, nofun, fun _ => keyLengthOk_iff.mp hk, fun hne => absurd rfl hne⟩
  case acceptsBlock c rest h _ hkeyed q hq r =>
    obtain ⟨hd, -⟩ | ⟨hd, -⟩ := hq
    · exact ⟨c, .encrypt, rest, h, hd, nofun, nofun, fun _ => hkeyed⟩
    · exact ⟨c, .decrypt, rest, h, hd, nofun, nofun, fun _ => hkeyed⟩
  case resets => cases ht
  all_goals simp [hs] at ht

theorem cause_of_busy_cleared (hx : step s = .next t) (hs : s.busy = true) (ht : t.busy = false) :
    engineIsNext s ∨ ∃ rest, s.agenda = .reset :: rest := by
  cases stepEffect_of_step hx
  case rests h _ => exact .inl h
  case becomesIdle h _ _ => exact .inl h
  case completesInit h _ _ _ _ _ _ => exact .inl h
  case completesBlock h _ _ _ _ => exact .inl h
  case resets rest h => exact .inr ⟨rest, h⟩
  all_goals simp [hs] at ht

theorem idle_of_completion (hx : step s = .next t) (hbusy : s.busy = true) (h : engineIsNext s) :
    t.busy = false ∧ t.pending = none := by
  obtain ⟨u, hstep, hidle, hempty, -⟩ := completionFrame s hbusy h
  cases hstep.symm.trans hx
  exact ⟨hidle, hempty⟩

/-- Settles O36: the two changes have their causes, and completion and reset leave BUSY = 0. -/
theorem busyChangesOnlyByCommandAndEngine : Obligations.BusyChangesOnlyByCommandAndEngine := fun _ _ hx =>
  ⟨cause_of_busy_set hx, cause_of_busy_cleared hx, idle_of_completion hx,
    fun ⟨_, h⟩ => (idle_unkeyed_of_reset hx h).2⟩

end Sys2Proof.Machine

/-! Runs: a list of host accesses one step at a time, the command in flight that it leaves alone, the secret it does
not reveal, and the completion that is never far (10_state.md R28, R38, 70_reset_and_hazards.md R173). -/

namespace Sys2Proof.Machine

open Sys2Proof.Safety

variable {s t : State}

/-! ### Running a list of host accesses -/

theorem agenda_of_hostWrite {off : BitVec 12} {size : AccessSize} {v : Word} (hx : hostWrite off size v s = .next t) :
    t.agenda = s.agenda := by
  obtain ⟨e, hw⟩ | ⟨-, -, hw | ⟨-, hw⟩ | ⟨-, hw⟩ | ⟨-, hw⟩ | ⟨-, hw⟩ | ⟨-, i, -, hw⟩⟩ :=
    hostWrite_cases off size v s
  case inr.inr.inr.inr.inr.inr =>
    obtain ⟨-, -, -, -, -, -, hagenda, -⟩ := acceptanceFrame i s t (hw.symm.trans hx)
    exact hagenda
  all_goals
    cases hw.symm.trans hx
    simp

/-- A host access takes no turn off the agenda but its own. -/
theorem agenda_of_hostTurn {a : Access} (hx : hostTurn a s = .next t) : t.agenda = s.agenda := by
  cases a with
  | read off size =>
    cases hx
    obtain ⟨-, -, hr⟩ | ⟨-, -, hr⟩ | ⟨-, hr⟩ := hostRead_cases off size s <;> simp [hr]
  | write off size v => exact agenda_of_hostWrite (s := s.withReply _) hx

/-- The induction over a list of host accesses, for a relation between two machines that every access keeps. -/
theorem run_accesses_related {R : State → State → Prop}
    (hkept : ∀ (a : Access) (s t : State), R s t →
      ∃ s' t', hostTurn a s = .next s' ∧ hostTurn a t = .next t' ∧ R s' t')
    (hagenda : ∀ (x : List Turn) (s t : State), R s t → R (s.withAgenda x) (t.withAgenda x))
    (as : List Access) (hs : s.agenda = as.map .host) (ht : t.agenda = as.map .host) (h : R s t) :
    ∃ s' t', Sys2Proof.core.run as.length s = .next s' ∧ Sys2Proof.core.run as.length t = .next t' ∧ R s' t' := by
  induction as generalizing s t with
  | nil => exact ⟨s, t, run_zero s, run_zero t, h⟩
  | cons a as ih =>
    obtain ⟨s', t', hs', ht', hR⟩ := hkept a _ _ (hagenda (as.map .host) s t h)
    obtain ⟨s'', t'', hruns, hrunt, hend⟩ := ih (agenda_of_hostTurn hs') (agenda_of_hostTurn ht') hR
    refine ⟨s'', t'', ?_, ?_, hend⟩
    · rw [List.length_cons, run_succ _ ((step_of_host hs).trans hs'), hruns]
    · rw [List.length_cons, run_succ _ ((step_of_host ht).trans ht'), hrunt]

/-- The same for a property of one machine. -/
theorem run_accesses {P : State → Prop}
    (hkept : ∀ (a : Access) (s : State), P s → ∃ s', hostTurn a s = .next s' ∧ P s')
    (hagenda : ∀ (x : List Turn) (s : State), P s → P (s.withAgenda x))
    (as : List Access) (hs : s.agenda = as.map .host) (h : P s) :
    ∃ s', Sys2Proof.core.run as.length s = .next s' ∧ P s' := by
  obtain ⟨s', _, hrun, -, rfl, hP⟩ := run_accesses_related (R := fun s t => s = t ∧ P s)
    (fun a s _ ⟨hst, hP⟩ => by
      obtain ⟨s', hs', hP'⟩ := hkept a s hP
      exact ⟨s', s', hs', hst ▸ hs', rfl, hP'⟩)
    (fun x s _ ⟨hst, hP⟩ => ⟨hst ▸ rfl, hagenda x s hP⟩) as hs hs ⟨rfl, h⟩
  exact ⟨s', hrun, hP⟩

/-! ### The command in flight (60_exceptions.md R140) -/

/-- A command is in flight in `t`, and it and all that its completion reads are as in `s`. -/
structure SameInFlight (s t : State) : Prop where
  busy : t.busy = true
  pending : t.pending = s.pending
  ctx : t.ctx = s.ctx
  key : t.key = s.key
  keylen : t.keylen = s.keylen
  dataL : t.dataL = s.dataL
  dataR : t.dataR = s.dataR
  keyed : t.keyed = s.keyed

theorem sameInFlight_refl (hbusy : s.busy = true) : SameInFlight s s := ⟨hbusy, rfl, rfl, rfl, rfl, rfl, rfl, rfl⟩

theorem sameInFlight_raiseError (h : SameInFlight s t) (e : ErrorCode) : SameInFlight s (raiseError e t) := by
  obtain ⟨-, he⟩ | ⟨-, he⟩ := raiseError_cases e t <;> rw [he]
  · exact h
  · exact { h with }

/-- While BUSY = 1 a host access raises an error, draws a free value or only answers. -/
theorem hostTurn_of_inFlight (a : Access) (h : SameInFlight s t) :
    ∃ t', hostTurn a t = .next t' ∧ SameInFlight s t' := by
  cases a with
  | read off size =>
    refine ⟨_, rfl, ?_⟩
    obtain ⟨-, -, hr⟩ | ⟨-, -, hr⟩ | ⟨-, hr⟩ := hostRead_cases off size t <;> rw [hr]
    · exact { h with }
    · exact { h with }
    · exact { sameInFlight_raiseError h .busError with }
  | write off size v =>
    have h' : SameInFlight s (t.withReply (writeReply off size)) := { h with }
    obtain ⟨e, hw⟩ | ⟨-, hidle, -⟩ := hostWrite_cases off size v (t.withReply (writeReply off size))
    · exact ⟨_, hw, sameInFlight_raiseError h' e⟩
    · exact absurd (h'.busy.symm.trans hidle) (by decide)

/-- Two states hold the same values in the fields a completion writes. -/
structure SameResult (s t : State) : Prop where
  ctx : t.ctx = s.ctx
  dataL : t.dataL = s.dataL
  dataR : t.dataR = s.dataR
  keyed : t.keyed = s.keyed

theorem sameResult_init (h : SameInFlight s t) (c : Context) :
    SameResult ((s.withCtx c).withKeyed true).withIdle ((t.withCtx c).withKeyed true).withIdle :=
  ⟨rfl, h.dataL, h.dataR, rfl⟩

theorem sameResult_block (h : SameInFlight s t) (b : Block) :
    SameResult (s.withBlock b).withIdle (t.withBlock b).withIdle :=
  ⟨h.ctx, rfl, rfl, h.keyed⟩

/-- What a completion writes depends on PENDING, the context and the registers it leaves alone. -/
theorem sameResult_complete (p : Params) (h : SameInFlight s t) : SameResult (complete p s) (complete p t) := by
  unfold complete
  rw [h.pending]
  cases s.pending with
  | none => exact ⟨h.ctx, h.dataL, h.dataR, h.keyed⟩
  | some q =>
    cases q with
    | init k n =>
      simp only [completeInit_eq]
      exact sameResult_init h _
    | encrypt b =>
      simp only [completeEncrypt, h.ctx]
      exact sameResult_block h _
    | decrypt b =>
      simp only [completeDecrypt, h.ctx]
      exact sameResult_block h _

/-- Settles O37, by induction over the accesses: each leaves the command in flight, and so does not change what its
completion writes. -/
theorem commandInFlightIsUndisturbed : Obligations.CommandInFlightIsUndisturbed := by
  intro s as hbusy
  have hstart : SameInFlight s (withAccesses as s) := { sameInFlight_refl hbusy with }
  obtain ⟨t, hrun, h⟩ := run_accesses (fun a _ => hostTurn_of_inFlight a) (fun _ _ h => { h with }) as rfl hstart
  have hend : SameInFlight (s.withAgenda []) (t.withAgenda []) := { h with }
  have hresult := sameResult_complete Config.params hend
  exact ⟨t, hrun, h.busy, h.pending, h.ctx, h.key, h.keylen, h.dataL, h.dataR, h.keyed, _, _,
    step_completes h.busy rfl, step_completes hbusy rfl, hresult.ctx, hresult.dataL, hresult.dataR, hresult.keyed⟩

theorem run_one (hx : step s = .next t) : Sys2Proof.core.run 1 s = .next t := by
  rw [run_succ 0 hx, run_zero]

/-- Settles O38, by induction on the turns to come: a host access keeps the command in flight and uses up its turn,
and every other turn ends it. -/
theorem commandInFlightCompletes : Obligations.CommandInFlightCompletes := by
  intro s hbusy
  generalize hturns : s.agenda = turns
  induction turns generalizing s with
  | nil =>
    obtain ⟨t, hx, hidle, hempty, -⟩ := completionFrame s hbusy (.inl hturns)
    exact ⟨1, t, by simp, run_one hx, hidle, hempty⟩
  | cons turn rest ih =>
    cases turn with
    | host a =>
      have hstart : SameInFlight s (s.withAgenda rest) := { sameInFlight_refl hbusy with }
      obtain ⟨u, hu, h⟩ := hostTurn_of_inFlight a hstart
      obtain ⟨k, t, hk, hrun, hend⟩ := ih u h.busy (agenda_of_hostTurn hu)
      refine ⟨k + 1, t, by simpa using hk, ?_, hend⟩
      rw [run_succ k ((step_of_host hturns).trans hu), hrun]
    | engine =>
      obtain ⟨t, hx, hidle, hempty, -⟩ := completionFrame s hbusy (.inr ⟨rest, hturns⟩)
      exact ⟨1, t, by simp, run_one hx, hidle, hempty⟩
    | reset => exact ⟨1, _, by simp, run_one (step_of_reset hturns), rfl, rfl⟩

/-! ### The secret (10_state.md R22, R23, R28, 60_exceptions.md R155) -/

/-- Two outcomes are next states that share all but the secret. -/
def NextSameButSecret (x y : Result) : Prop := ∃ s t, x = .next s ∧ y = .next t ∧ SameButSecret s t

theorem sameButSecret_raiseError (h : SameButSecret s t) (e : ErrorCode) :
    SameButSecret (raiseError e s) (raiseError e t) := by
  unfold raiseError
  rw [h.err]
  split
  · exact h
  · exact { h with err := rfl, errcode := rfl }

theorem sameButSecret_unlessBusy (h : SameButSecret s t) {f : State → State} (hf : SameButSecret (f s) (f t)) :
    SameButSecret (unlessBusy s f) (unlessBusy t f) := by
  unfold unlessBusy
  rw [h.busy]
  split
  · exact sameButSecret_raiseError h .busyViolation
  · exact hf

/-- Whether a block command is accepted depends on KEYED alone; its record is part of the secret. -/
theorem sameButSecret_acceptBlock (h : SameButSecret s t) (op : Block → Pending) :
    SameButSecret (acceptBlock op s) (acceptBlock op t) := by
  unfold acceptBlock
  rw [h.keyed]
  split
  · exact { h with busy := rfl }
  · exact sameButSecret_raiseError h .notKeyed

/-- Whether INIT is accepted depends on KEYLEN alone; the key bytes it records are part of the secret. -/
theorem nextSameButSecret_init (h : SameButSecret s t) : NextSameButSecret (exec .init s) (exec .init t) := by
  refine ⟨_, _, rfl, rfl, sameButSecret_unlessBusy h ?_⟩
  rw [h.keylen]
  split
  · exact { h with busy := rfl, keyed := rfl }
  · exact sameButSecret_raiseError h .badKeylen

theorem nextSameButSecret_exec (h : SameButSecret s t) (i : Instr) : NextSameButSecret (exec i s) (exec i t) := by
  cases i with
  | nop => exact ⟨_, _, rfl, rfl, sameButSecret_unlessBusy h h⟩
  | init => exact nextSameButSecret_init h
  | encrypt => exact ⟨_, _, rfl, rfl, sameButSecret_unlessBusy h (sameButSecret_acceptBlock h _)⟩
  | decrypt => exact ⟨_, _, rfl, rfl, sameButSecret_unlessBusy h (sameButSecret_acceptBlock h _)⟩

theorem nextSameButSecret_writeEffect (h : SameButSecret s t) (off : BitVec 12) (size : AccessSize) (v : Word) :
    NextSameButSecret (writeEffect off size v s) (writeEffect off size v t) := by
  unfold writeEffect
  cases slotAt off with
  | cmd =>
    change NextSameButSecret (command v s) (command v t)
    unfold command
    cases decode v with
    | ok i => exact nextSameButSecret_exec h i
    | error _ => exact ⟨_, _, rfl, rfl, sameButSecret_unlessBusy h (sameButSecret_raiseError h _)⟩
  | status => exact ⟨s, t, rfl, rfl, h⟩
  | keylen => exact ⟨_, _, rfl, rfl, { h with keylen := rfl }⟩
  | dataL => exact ⟨_, _, rfl, rfl, { h with dataL := rfl }⟩
  | dataR => exact ⟨_, _, rfl, rfl, { h with dataR := rfl }⟩
  | key => exact ⟨_, _, rfl, rfl, { h with }⟩
  | reserved => exact ⟨s, t, rfl, rfl, h⟩

theorem nextSameButSecret_hostWrite (h : SameButSecret s t) (off : BitVec 12) (size : AccessSize) (v : Word) :
    NextSameButSecret (hostWrite off size v s) (hostWrite off size v t) := by
  unfold hostWrite
  rw [h.busy]
  split
  · split
    · exact ⟨_, _, rfl, rfl, sameButSecret_raiseError h .busyViolation⟩
    · exact nextSameButSecret_writeEffect h off size v
  · exact ⟨_, _, rfl, rfl, sameButSecret_raiseError h .busError⟩

theorem sameButSecret_withReply (h : SameButSecret s t) (r : Reply) :
    SameButSecret (s.withReply r) (t.withReply r) :=
  { h with replies := congrArg (· ++ [r]) h.replies }

theorem sameButSecret_withDrawn (h : SameButSecret s t) : SameButSecret s.withDrawn t.withDrawn :=
  { h with free := congrArg (· + 1) h.free }

/-- No register the host can read holds any of the secret; a free value depends on the count alone (log 8). -/
theorem readValue_congr (h : SameButSecret s t) (off : BitVec 12) : readValue off s = readValue off t := by
  simp only [readValue, statusWord, h.errcode, h.err, h.keyed, h.busy, h.keylen, h.free, h.dataL, h.dataR]

theorem readDraws_congr (h : SameButSecret s t) (off : BitVec 12) : readDraws off s = readDraws off t := by
  simp only [readDraws, h.busy]

theorem nextSameButSecret_hostTurn (h : SameButSecret s t) (a : Access) :
    NextSameButSecret (hostTurn a s) (hostTurn a t) := by
  cases a with
  | read off size =>
    refine ⟨_, _, rfl, rfl, ?_⟩
    unfold hostRead
    rw [readValue_congr h, readDraws_congr h]
    split
    · split
      · exact sameButSecret_withReply (sameButSecret_withDrawn h) _
      · exact sameButSecret_withReply h _
    · exact sameButSecret_withReply (sameButSecret_raiseError h .busError) _
  | write off size v => exact nextSameButSecret_hostWrite (sameButSecret_withReply h _) off size v

/-- Settles O39, by induction over the accesses: each keeps the relation. -/
theorem hostAccessesDoNotRevealTheKey : Obligations.HostAccessesDoNotRevealTheKey := fun _ _ as h =>
  run_accesses_related (fun a _ _ h => nextSameButSecret_hostTurn h a) (fun _ _ _ h => { h with agenda := rfl })
    as rfl rfl { h with agenda := rfl }

end Sys2Proof.Machine

/-! Reset (70_reset_and_hazards.md R160, R161), and the net effect of the swaps of the block transform
(41_block_transform.md R113). -/

namespace Sys2Proof.Machine

open Sys2Proof.Safety

/-! ### Reset -/

/-- Settles O40: the values are those `State.afterReset` writes, and an empty buffer reads 0. -/
theorem resetState : Obligations.ResetState :=
  ⟨Memory.read_nil, rfl, rfl, rfl, rfl, rfl, rfl, rfl, rfl, rfl⟩

/-- Settles O41: reset overwrites the command in flight with the values of R160, KEYED = 0 among them. -/
theorem resetAbandonsTheCommand : Obligations.ResetAbandonsTheCommand := by
  intro s rest h
  obtain ⟨hencrypt, hdecrypt⟩ :=
    unkeyedBlockCommandsAreRefused (applyReset (s.withAgenda rest)) rfl rfl
  exact ⟨_, step_of_reset h, Memory.read_nil, rfl, rfl, rfl, rfl, rfl, rfl, rfl, rfl, rfl, rfl, rfl,
    hencrypt, hdecrypt⟩

/-! ### The swaps (41_block_transform.md R113) -/

/-- Undoing the last swap and whitening, with the last round taken off: that round without its exchange. -/
theorem feistelCipher_eq_last_round (f : Word → Word) (k : Nat → Word) (b : Block) :
    feistelCipher f k b =
      { L := (feistelRounds f k 63 b).L ^^^ k 63 ^^^ k 65
        R := (feistelRounds f k 63 b).R ^^^ f ((feistelRounds f k 63 b).L ^^^ k 63) ^^^ k 64 } := by
  rw [feistelCipher, feistelRounds_succ f k 63 b, feistelRound, swapHalves, whiten]

/-- Settles O49: both directions are the one cipher, whose last exchange is undone. -/
theorem netEffectOfTheSwaps : Obligations.NetEffectOfTheSwaps := by
  intro f c b
  rw [encryptBlock_eq_cipher, decryptBlock_eq_cipher, feistelCipher_eq_last_round, feistelCipher_eq_last_round]
  exact ⟨rfl, rfl⟩

end Sys2Proof.Machine
